-- ==== Sys2Proof/Word.lean ====
section
/-! DEFINITION. The widths the BTU moves: 32-bit operand and data words, the 128-bit command word, the 96-bit
response word (30_encoding.md R60). -/

namespace Sys2Proof

/-- An operand or data word (R61 fields A, B, C; R67 fields R0, R1). -/
abbrev Word := BitVec 32

/-- One command, moved as one beat (R60, R61). -/
abbrev CommandWord := BitVec 128

/-- One response, moved as one beat (R60, R67). -/
abbrev ResponseWord := BitVec 96

/-- A byte of a serialised word (20_memory.md R44). -/
abbrev Byte := BitVec 8

end Sys2Proof
end

