-- ==== Sys2Proof/Response.lean ====
section
/-! DEFINITION. The response of a command as data (30_encoding.md R67, R68). Its 96-bit word is `encodeResponse` of
Decode.lean. -/

namespace Sys2Proof

/-- The four error causes (60_exceptions.md R201). -/
inductive ErrorCause where
  /-- A reserved opcode, or reserved header bits that are not 0 (R64). -/
  | illegal
  /-- A map command while `S.MAP_VALID = 0`. -/
  | nomap
  /-- SETLVL with a level above LMAX. -/
  | param
  /-- TCELL with a coordinate outside the matrix. -/
  | range
deriving DecidableEq, Repr

/-- The result codes (R68). The block produces no other. -/
inductive ResultCode where
  /-- The command executed. -/
  | ok
  /-- The command failed for this cause. -/
  | error (e : ErrorCause)
deriving DecidableEq, Repr

/-- The fields of a response (R67). -/
structure Response where
  /-- `cmd[15:8]` of the command answered. -/
  tag : BitVec 8
  /-- `cmd[3:0]` of the command answered, raw. -/
  op : BitVec 4
  /-- The result code. -/
  rc : ResultCode
  /-- The decision bit: true is on (41_comparator.md R134). -/
  d : Bool
  /-- Data word 0 (R69). -/
  r0 : Word
  /-- Data word 1 (R69). -/
  r1 : Word
deriving DecidableEq, Repr

end Sys2Proof
end

