-- ==== Sys2Proof/Syntax.lean ====
section
/-! DEFINITION. The eight commands (30_encoding.md R63), one constructor per row of the opcode table. Each carries its
TAG (R61) and the operands R62 gives it, each at the width the encoding gives it: an operand that does not fit cannot be
written. Fields a command does not use (R66) are no part of it. -/

namespace Sys2Proof

/-- A legal command. -/
inductive Instr where
  /-- NOP (R160). -/
  | nop (tag : BitVec 8)
  /-- SETLVL: A = level (R110). -/
  | setlvl (tag : BitVec 8) (level : Word)
  /-- GETCFG (R165). -/
  | getcfg (tag : BitVec 8)
  /-- CLRSTAT: A[5:0] = mask6 (R166). -/
  | clrstat (tag : BitVec 8) (mask : BitVec 6)
  /-- TCELL: A = row i, B = column j (R111). -/
  | tcell (tag : BitVec 8) (i j : Word)
  /-- TSAMPLE: A = x (column), B = y (row) (R112). -/
  | tsample (tag : BitVec 8) (x y : Word)
  /-- TCMP: A = luminance, B = threshold, binary32 fields (R135). -/
  | tcmp (tag : BitVec 8) (lum thr : Word)
  /-- DITHER: A = x, B = y, C = luminance (R136). -/
  | dither (tag : BitVec 8) (x y lum : Word)
deriving DecidableEq, Repr

end Sys2Proof
end

