-- ==== Sys2Proof/Assembly.lean ====
section
/-! DEFINITION. A line of assembly as data (30_encoding.md R71, R72), before any check: its numbers are unbounded. The
check is `AsmLine.wellFormed` (WellFormed.lean); the assembler and the reader of text are in Machine/Assembler.lean. -/

namespace Sys2Proof

/-- An `f32` operand (R71). -/
inductive F32Literal where
  /-- `f:0xHHHHHHHH`, the exact bit pattern. -/
  | bits (v : Nat)
  /-- A decimal literal: `digits · 10^(-scale)`, negated if `neg`. -/
  | decimal (neg : Bool) (digits scale : Nat)
deriving DecidableEq, Repr

/-- The mnemonic and operands of a line, pseudo-instructions but RAW included (R63, R72). -/
inductive AsmOp where
  | nop
  | setlvl (level : Nat)
  | getcfg
  | clrstat (mask : Nat)
  | tcell (i j : Nat)
  | tsample (x y : Nat)
  | tcmp (lum thr : F32Literal)
  | dither (x y : Nat) (lum : F32Literal)
  /-- CLRALL: read STATUS and clear every bit. -/
  | clrall
  /-- RDSTAT: read STATUS and clear nothing. -/
  | rdstat
  /-- SYNC: the drain marker. -/
  | sync
deriving DecidableEq, Repr

/-- A line of assembly (R71). RAW takes no suffix (R72). -/
inductive AsmLine where
  /-- `MNEMONIC[.tN] operands`; without the suffix the tag is 0. -/
  | command (tag : Option Nat) (op : AsmOp)
  /-- `RAW h, a, b, c`: any word. -/
  | raw (h a b c : Nat)
deriving DecidableEq, Repr

end Sys2Proof
end

