-- ==== Sys2Proof/WellFormed.lean ====
section
/-! DEFINITION. What may be written. An `Instr` needs no check: every operand is held at the width the encoding gives it.
A line of assembly does: "An assembler rejects an operand that does not fit its kind" (30_encoding.md R71). Whether a
command WORD is legal (R64) is `legal` of Decode.lean. -/

namespace Sys2Proof

/-- A `u32` literal is below `2^32` (R71). -/
def fitsU32 (v : Nat) : Bool := decide (v < 2 ^ 32)

/-- A `mask6` literal is below 64 (R71). -/
def fitsMask6 (v : Nat) : Bool := decide (v < 64)

/-- A tag suffix `.tN` has `0 ≤ N ≤ 255` (R71). -/
def fitsTag (n : Option Nat) : Bool := n.all fun v => decide (v ≤ 255)

/-- A bit pattern has 32 bits (R71); a decimal literal of any size converts (PRESUMED, log entry 12). -/
def F32Literal.fits : F32Literal → Bool
  | .bits v => fitsU32 v
  | .decimal _ _ _ => true

/-- Every operand fits its kind (R62, R71). -/
def AsmOp.wellFormed : AsmOp → Bool
  | .nop => true
  | .setlvl level => fitsU32 level
  | .getcfg => true
  | .clrstat mask => fitsMask6 mask
  | .tcell i j => fitsU32 i && fitsU32 j
  | .tsample x y => fitsU32 x && fitsU32 y
  | .tcmp lum thr => lum.fits && thr.fits
  | .dither x y lum => fitsU32 x && fitsU32 y && lum.fits
  | .clrall => true
  | .rdstat => true
  | .sync => true

/-- The tag and every operand fit (R71, R72). That RAW's words are `u32` literals is the model's choice (DESIGN CHOICE, log
entry 12). -/
def AsmLine.wellFormed : AsmLine → Bool
  | .command tag op => fitsTag tag && op.wellFormed
  | .raw h a b c => fitsU32 h && fitsU32 a && fitsU32 b && fitsU32 c

end Sys2Proof
end

