-- ==== Sys2Proof/Decode.lean ====
section
/-! DEFINITION. Command words to commands and back (30_encoding.md R61 to R66), response words (R67, R68), and the
serial order of both (20_memory.md R44, R45). -/

namespace Sys2Proof

/-! ### The fields of a command word (R61) -/

/-- `cmd[3:0]`. -/
def opField (w : CommandWord) : BitVec 4 := w.extractLsb' 0 4
/-- `cmd[7:4]`, reserved. -/
def rsv0Field (w : CommandWord) : BitVec 4 := w.extractLsb' 4 4
/-- `cmd[15:8]`. -/
def tagField (w : CommandWord) : BitVec 8 := w.extractLsb' 8 8
/-- `cmd[31:16]`, reserved. -/
def rsv1Field (w : CommandWord) : BitVec 16 := w.extractLsb' 16 16
/-- `cmd[63:32]`. -/
def aField (w : CommandWord) : Word := w.extractLsb' 32 32
/-- `cmd[95:64]`. -/
def bField (w : CommandWord) : Word := w.extractLsb' 64 32
/-- `cmd[127:96]`. -/
def cField (w : CommandWord) : Word := w.extractLsb' 96 32

/-- The low six bits of an operand, the STATUS bits a `mask6` names (R62). -/
def mask6 (a : Word) : BitVec 6 := a.extractLsb' 0 6

/-! ### The opcode map (R63) -/

def Opcode.nop : BitVec 4 := 0x0
def Opcode.setlvl : BitVec 4 := 0x1
def Opcode.getcfg : BitVec 4 := 0x2
def Opcode.clrstat : BitVec 4 := 0x3
def Opcode.tcell : BitVec 4 := 0x4
def Opcode.tsample : BitVec 4 := 0x5
def Opcode.tcmp : BitVec 4 := 0x6
def Opcode.dither : BitVec 4 := 0x7

/-- The opcode of a command (R63). -/
def Instr.opcode : Instr → BitVec 4
  | .nop _ => Opcode.nop
  | .setlvl _ _ => Opcode.setlvl
  | .getcfg _ => Opcode.getcfg
  | .clrstat _ _ => Opcode.clrstat
  | .tcell _ _ _ => Opcode.tcell
  | .tsample _ _ _ => Opcode.tsample
  | .tcmp _ _ _ => Opcode.tcmp
  | .dither _ _ _ _ => Opcode.dither

/-- The tag of a command (R61). -/
def Instr.tag : Instr → BitVec 8
  | .nop tag => tag
  | .setlvl tag _ => tag
  | .getcfg tag => tag
  | .clrstat tag _ => tag
  | .tcell tag _ _ => tag
  | .tsample tag _ _ => tag
  | .tcmp tag _ _ => tag
  | .dither tag _ _ _ => tag

/-! ### Decoding (R64, R65) -/

/-- Why a word is illegal (R65): the three reserved encodings, each with the value found. -/
inductive DecodeError where
  /-- Opcode 8 to 15. -/
  | reservedOpcode (op : BitVec 4)
  /-- RSV0 is not 0. -/
  | reservedRsv0 (v : BitVec 4)
  /-- RSV1 is not 0. -/
  | reservedRsv1 (v : BitVec 16)
deriving DecidableEq, Repr

/-- The first reserved encoding a word has, if any. -/
def reservedEncoding (w : CommandWord) : Option DecodeError :=
  if (opField w).getLsbD 3 then some (.reservedOpcode (opField w))
  else if rsv0Field w ≠ 0 then some (.reservedRsv0 (rsv0Field w))
  else if rsv1Field w ≠ 0 then some (.reservedRsv1 (rsv1Field w))
  else none

/-- A command is legal when it has no reserved encoding (R64). -/
def legal (w : CommandWord) : Bool := (reservedEncoding w).isNone

/-- The command of a legal header, by the low three bits of OP (R63). -/
def decodeLegal (w : CommandWord) : Instr :=
  match ((opField w).extractLsb' 0 3).toNat with
  | 0 => .nop (tagField w)
  | 1 => .setlvl (tagField w) (aField w)
  | 2 => .getcfg (tagField w)
  | 3 => .clrstat (tagField w) (mask6 (aField w))
  | 4 => .tcell (tagField w) (aField w) (bField w)
  | 5 => .tsample (tagField w) (aField w) (bField w)
  | 6 => .tcmp (tagField w) (aField w) (bField w)
  | _ => .dither (tagField w) (aField w) (bField w) (cField w)

/-- Total on command words: a command, or the reserved encoding by name (R64, R65). -/
def decode (w : CommandWord) : Except DecodeError Instr :=
  match reservedEncoding w with
  | some e => .error e
  | none => .ok (decodeLegal w)

/-! ### Encoding: written from R61 and R63, fields the command does not name being 0 (R71) -/

/-- `{C, B, A, RSV1 = 0, TAG, RSV0 = 0, OP}` (R61). -/
def packCommand (op : BitVec 4) (tag : BitVec 8) (a b c : Word) : CommandWord :=
  c ++ b ++ a ++ (0 : BitVec 16) ++ tag ++ (0 : BitVec 4) ++ op

/-- The word of a command. -/
def encode : Instr → CommandWord
  | .nop tag => packCommand Opcode.nop tag 0 0 0
  | .setlvl tag level => packCommand Opcode.setlvl tag level 0 0
  | .getcfg tag => packCommand Opcode.getcfg tag 0 0 0
  | .clrstat tag mask => packCommand Opcode.clrstat tag (mask.setWidth 32) 0 0
  | .tcell tag i j => packCommand Opcode.tcell tag i j 0
  | .tsample tag x y => packCommand Opcode.tsample tag x y 0
  | .tcmp tag lum thr => packCommand Opcode.tcmp tag lum thr 0
  | .dither tag x y lum => packCommand Opcode.dither tag x y lum

/-- What the decoder reads from an instruction whose low `nbits` bits are `w` and whose other bits are 0. A command is
one 128-bit word (R60), so laying it out and reading it back is the identity. -/
def decodeTableWord (nbits w : Nat) : Option Instr :=
  (decode (BitVec.ofNat 128 (w % 2 ^ nbits))).toOption

/-! ### Response words (R67, R68) -/

/-- The result code's number (R68, 60_exceptions.md R201). -/
def ErrorCause.code : ErrorCause → BitVec 4
  | .illegal => 1
  | .nomap => 2
  | .param => 3
  | .range => 4

/-- The RC field (R68). -/
def ResultCode.bits : ResultCode → BitVec 4
  | .ok => 0
  | .error e => e.code

/-- The 96-bit word of a response (R67). -/
def encodeResponse (r : Response) : ResponseWord :=
  r.r1 ++ r.r0 ++ (0 : BitVec 15) ++ BitVec.ofBool r.d ++ r.rc.bits ++ r.op ++ r.tag

/-- The result code of an RC field; 5 to 15 are never from this block (R68, 93_implementation_defined.md U16). -/
def decodeResultCode (v : BitVec 4) : Option ResultCode :=
  match v.toNat with
  | 0 => some .ok
  | 1 => some (.error .illegal)
  | 2 => some (.error .nomap)
  | 3 => some (.error .param)
  | 4 => some (.error .range)
  | _ => none

/-- The response of a word, refused where RC is 5 to 15 or bits 31 to 17 are not 0 (R67, R68). -/
def decodeResponse (w : ResponseWord) : Option Response :=
  if w.extractLsb' 17 15 = 0 then
    (decodeResultCode (w.extractLsb' 12 4)).map fun rc =>
      ⟨w.extractLsb' 0 8, w.extractLsb' 8 4, rc, w.getLsbD 16, w.extractLsb' 32 32, w.extractLsb' 64 32⟩
  else none

/-! ### Serial order (20_memory.md R44, R45) -/

/-- The chunks of a word, `n` of `width` bits each, lowest first: little-endian bytes or lanes (R44). -/
def chunks {w : Nat} (width n : Nat) (v : BitVec w) : List (BitVec width) :=
  (List.range n).map fun k => v.extractLsb' (width * k) width

/-- The number whose digits of `width` bits are `cs`, lowest first. -/
def joinChunks {width : Nat} : List (BitVec width) → Nat
  | [] => 0
  | c :: cs => c.toNat + 2 ^ width * joinChunks cs

/-- The 16 bytes of a command, byte `k` being bits `[8k+7:8k]` (R44). -/
def commandBytes (w : CommandWord) : List Byte := chunks 8 16 w

/-- The four lanes of a command, lane `k` being bits `[32k+31:32k]` (R44). -/
def commandLanes (w : CommandWord) : List Word := chunks 32 4 w

/-- The 12 bytes of a response (R44). -/
def responseBytes (w : ResponseWord) : List Byte := chunks 8 12 w

/-- The three lanes of a response (R44). -/
def responseLanes (w : ResponseWord) : List Word := chunks 32 3 w

/-- The command of exactly 16 bytes; any other count is no whole word (R45). -/
def commandOfBytes (bs : List Byte) : Option CommandWord :=
  if bs.length = 16 then some (BitVec.ofNat 128 (joinChunks bs)) else none

/-- The command of exactly four lanes (R44, R45). -/
def commandOfLanes (ls : List Word) : Option CommandWord :=
  if ls.length = 4 then some (BitVec.ofNat 128 (joinChunks ls)) else none

/-- The response of exactly 12 bytes (R44, R45). -/
def responseOfBytes (bs : List Byte) : Option ResponseWord :=
  if bs.length = 12 then some (BitVec.ofNat 96 (joinChunks bs)) else none

/-- The response of exactly three lanes (R44, R45). -/
def responseOfLanes (ls : List Word) : Option ResponseWord :=
  if ls.length = 3 then some (BitVec.ofNat 96 (joinChunks ls)) else none

end Sys2Proof
end

