-- ==== Sys2Proof/Machine/Binary32.lean ====
section
/-! DEFINITION. Binary32 fields as values and their exact order (41_comparator.md R130 to R134), with the other
comparators R137 allows. -/

namespace Sys2Proof.Machine

/-- The sign, `v[31]` (R130). -/
def signBit (v : Word) : Bool := v.getLsbD 31

/-- The biased exponent E, `v[30:23]` (R130). -/
def expField (v : Word) : Nat := (v.extractLsb' 23 8).toNat

/-- The fraction F, `v[22:0]` (R130). -/
def fracField (v : Word) : Nat := (v.extractLsb' 0 23).toNat

/-- `isNaN32` (R130). -/
def isNaN32 (v : Word) : Bool := expField v == 255 && fracField v != 0

/-- An extended real, or NaN. Every finite binary32 value is a whole number of units of `2^(-149)`, so it is held as that
whole number (DEDUCED from R130, log entry 10). -/
inductive F32Value where
  | nan
  | infinity (negative : Bool)
  | finite (units : Int)
deriving DecidableEq, Repr

/-- `2^149` units are 1. -/
def unitsOfOne : Nat := 2 ^ 149

/-- The size of a finite field in units: `F` if `E = 0`, else `(2^23 + F) · 2^(E-1)` (R130, both times `2^149`). -/
def magnitude (v : Word) : Nat :=
  if expField v = 0 then fracField v else (2 ^ 23 + fracField v) * 2 ^ (expField v - 1)

/-- `val32` (R130). -/
def val32 (v : Word) : F32Value :=
  if isNaN32 v then .nan
  else if expField v = 255 then .infinity (signBit v)
  else .finite (if signBit v then -(magnitude v : Int) else magnitude v)

/-- The order of the extended reals; nothing is greater or less than NaN (R132). -/
def F32Value.gt : F32Value → F32Value → Bool
  | .nan, _ => false
  | _, .nan => false
  | .infinity n, .infinity m => !n && m
  | .infinity n, .finite _ => !n
  | .finite _, .infinity m => m
  | .finite a, .finite b => decide (b < a)

/-- The greater-than comparator (R132). -/
def gt32 (l t : Word) : Bool :=
  if isNaN32 l || isNaN32 t then false else (val32 l).gt (val32 t)

/-- `OOR`: not NaN, and below 0 or above 1 (R133). -/
def outOfRange (l : Word) : Bool :=
  !isNaN32 l && ((F32Value.finite 0).gt (val32 l) || (val32 l).gt (.finite unitsOfOne))

/-- `decide`: true is on (R134). -/
def decideOn (l t : Word) : Bool := gt32 l t

/-! ### The comparators R137 allows in its place -/

/-- The ordered-integer key (R137). -/
def orderKey (v : Word) : Word := if signBit v then ~~~v else v ^^^ 0x80000000

/-- Zero of either sign (R137). -/
def isZero32 (v : Word) : Bool := v.extractLsb' 0 31 == 0

/-- Greater-than by ordered-integer keys, the two zeros being equal (R137). -/
def gtByKey (l t : Word) : Bool :=
  !isNaN32 l && !isNaN32 t && !(isZero32 l && isZero32 t) && decide ((orderKey t).toNat < (orderKey l).toNat)

/-- The decision against rank `r` of a map of power `p` in fixed point, R137 (a), (b) and (c): `q` is the whole part of
`val32(l) · 2^(2p)`, and the remainder stands for the fraction dropped. NaN is off (R132). -/
def onFixedPoint (p r : Nat) (l : Word) : Bool :=
  if isNaN32 l then false
  else if signBit l then false
  else if expField l = 255 || decide (unitsOfOne ≤ magnitude l) then true
  else
    let scaled := magnitude l * 4 ^ p
    decide (r < scaled / unitsOfOne) || (decide (scaled / unitsOfOne = r) && decide (scaled % unitsOfOne ≠ 0))

end Sys2Proof.Machine
end

