-- ==== Sys2Proof/Config.lean ====
section
/-! DEFINITION. The constants of the block (10_state.md R28) and the parameters 00_scope.md R8 leaves OPEN. -/

namespace Sys2Proof.Config

/-- The largest level (R6, R28). -/
abbrev LMAX : Nat := 11

/-- The largest power, `LMAX + 1` (R6). -/
abbrev PMAX : Nat := LMAX + 1

/-- The identity field of the CFG word (R28, 42_control.md R164). -/
def ID : BitVec 8 := 0xB7

/-- The version field of the CFG word (R28, R164). -/
def VERSION : BitVec 8 := 0x01

/-- OPEN (R8): one less than `LAT`, so that `LAT ≥ 1` holds by form. Nothing in Lean gives it a value (log entry 4). -/
opaque latPred : Nat

/-- Cycles from accepting a command to offering its response, at the least (R8, 70_reset_and_hazards.md R249). -/
def LAT : Nat := latPred + 1

/-- OPEN (R8): one less than `DEPTH`, so that `DEPTH ≥ 1` holds by form (log entry 5). -/
opaque depthPred : Nat

/-- The most accepted commands whose responses have not been taken (R8, R248). -/
def DEPTH : Nat := depthPred + 1

/-- OPEN (R8): the cycles after reset during which `cmd_ready` may stay low (R243, log entry 6). -/
opaque rstLat : Nat

end Sys2Proof.Config
end

