-- ==== Sys2Proof/Machine/State.lean ====
section
/-! DEFINITION. Everything the spec gives the block to remember (10_state.md), as plain data, and the state after reset
(R31). -/

namespace Sys2Proof.Machine

/-- The architectural state S (R23): exactly three fields. -/
structure Arch where
  /-- `S.LEVEL`, the level of the current map (R23, R24). -/
  level : BitVec 4
  /-- `S.MAP_VALID` (R23). -/
  mapValid : Bool
  /-- `S.STATUS`, sticky event bits (R25). -/
  status : BitVec 6
deriving DecidableEq, Repr

/-- The names of the STATUS bits (R25). Their places are `StatusBit.mask` of Flags.lean. -/
inductive StatusBit where
  /-- A command raised ILLEGAL. -/
  | eIll
  /-- A map command raised NOMAP. -/
  | eNomap
  /-- SETLVL raised PARAM. -/
  | eParam
  /-- TCELL raised RANGE. -/
  | eRange
  /-- TCMP or DITHER compared a NaN. -/
  | nanSeen
  /-- TCMP or DITHER got a luminance outside `[0,1]` that is not NaN. -/
  | oorSeen
deriving DecidableEq, Repr

/-- Where the block stands after a reset (70_reset_and_hazards.md R240, R243). -/
inductive Phase where
  /-- A reset edge has come, and no edge with `rst = 0` since: both outputs are low (R240). -/
  | reset
  /-- Out of reset, `cmd_ready` not yet raised, low for `lowFor` edges so far (R243). -/
  | waking (lowFor : Nat)
  /-- `cmd_ready` has been high since the reset. -/
  | running
deriving DecidableEq, Repr

/-- A command accepted and not yet executed (R29). -/
structure Accepted where
  /-- The word that transferred. -/
  word : CommandWord
  /-- The edges left until `LAT` lets its response be offered (00_scope.md R8). -/
  wait : Nat
  /-- The edges left that the block itself takes, counted alongside `wait`, as it chose at the transfer (R249, R250; log
  entry 11). -/
  delay : Nat
deriving DecidableEq, Repr

/-- What one clock cycle brings: the host's lines as the block samples them (20_memory.md R41), and the choices the spec
leaves to the block in that cycle. -/
structure Cycle where
  /-- The line `rst`. -/
  rst : Bool
  /-- The line `cmd_valid`. -/
  cmdValid : Bool
  /-- The lines `cmd_data`. -/
  cmdData : CommandWord
  /-- The line `rsp_ready`. -/
  rspReady : Bool
  /-- The cycles for which the block holds `cmd_ready` low from the next one on, where it may choose that at this edge
  (R243, R246 (c), R248, R250). -/
  stall : Nat
  /-- The edges the block itself takes for a command that transfers at this edge, before it runs: it runs once these and
  those of `LAT` are both over (R249, R250). -/
  delay : Nat
  /-- Which word a transfer takes of a host that changed its word: 0 is the present one, `k + 1` the `k`-th of
  `State.held` (R245). -/
  take : Nat
deriving DecidableEq, Repr

/-- The machine: the block, what the host will drive, and what the host has taken. -/
structure State where
  /-- The architectural state (R23). -/
  arch : Arch
  /-- The reset sequence (R240, R243). -/
  phase : Phase
  /-- The accepted-command FIFO, oldest first (R29). -/
  accepted : List Accepted
  /-- The pending-response FIFO, oldest first; its head is the response offered (R29). -/
  responses : List Response
  /-- The words the host has offered since the last transfer or reset, without a transfer and without repeats, oldest
  first: of a host that keeps its offer, its one word (R245). -/
  held : List CommandWord
  /-- The cycles for which the block still holds `cmd_ready` low. The MODEL's own field: the rest of a choice that
  R246 (c), R248 and R250 leave to the block (log entry 11). -/
  stall : Nat
  /-- The coming cycles, next first. The MODEL's own field: the host and the open timing (log entry 2). -/
  script : List Cycle
  /-- The responses the host has taken, oldest first. The MODEL's own field: the observation of R251 (log entry 3). -/
  received : List Response
deriving DecidableEq, Repr

/-- S after reset (R31, R241). -/
def Arch.reset : Arch := { level := 0, mapValid := false, status := 0 }

/-- The machine right after a reset edge (R31, R240, R241); nothing scripted and nothing received
(DESIGN CHOICE, log entries 2 and 3), no hold of `cmd_ready` under way (DESIGN CHOICE, log entry 11). -/
def State.reset : State :=
  { arch := Arch.reset
    phase := .reset
    accepted := []
    responses := []
    held := []
    stall := 0
    script := []
    received := [] }

/-- The faults of the machine: none. "The block has no trap mechanism" (60_exceptions.md R200): an error is a response and
a STATUS bit. Nothing raises a fault, so the type is empty, which is exact. -/
inductive Fault where
deriving DecidableEq, Repr

/-- The reasons to refuse an instruction. -/
inductive Refusal where
  /-- An arm of `exec` whose instruction has no meaning yet. Safe: no claim can be made of it. No arm raises it now. -/
  | notModelled (mnemonic : String)
deriving DecidableEq, Repr

end Sys2Proof.Machine
end

