-- ==== Sys2Proof/Machine/Flags.lean ====
section
/-! DEFINITION. STATUS: the place of each bit, setting and clearing, and the two conditions that are flags and not errors
(10_state.md R25, R26; 41_comparator.md R133). -/

namespace Sys2Proof.Machine

/-- The bit number of a STATUS bit (R25). -/
def StatusBit.index : StatusBit → Nat
  | .eIll => 0
  | .eNomap => 1
  | .eParam => 2
  | .eRange => 3
  | .nanSeen => 4
  | .oorSeen => 5

/-- STATUS with this bit alone. -/
def StatusBit.mask (b : StatusBit) : BitVec 6 := 1#6 <<< b.index

/-- The STATUS bit of an error (60_exceptions.md R201, R203). -/
def causeBit : ErrorCause → StatusBit
  | .illegal => .eIll
  | .nomap => .eNomap
  | .param => .eParam
  | .range => .eRange

/-- "A STATUS bit is set by OR-ing in 1" (R26). -/
def State.setStatus (s : State) (b : StatusBit) : State :=
  { s with arch := { s.arch with status := s.arch.status ||| b.mask } }

/-- Set a STATUS bit if its condition holds. -/
def State.setStatusIf (s : State) (c : Bool) (b : StatusBit) : State :=
  if c then s.setStatus b else s

/-- Clear the selected STATUS bits (42_control.md R166). -/
def State.clearStatus (s : State) (mask : BitVec 6) : State :=
  { s with arch := { s.arch with status := s.arch.status &&& ~~~mask } }

/-- The NaN condition of TCMP: either operand (41_comparator.md R135). -/
def nanOfPair (l t : Word) : Bool := isNaN32 l || isNaN32 t

/-- The NaN condition of DITHER: the luminance (R136). -/
def nanOfLuminance (l : Word) : Bool := isNaN32 l

/-- The out-of-range condition, of the luminance only (R133). -/
def oorOfLuminance (l : Word) : Bool := outOfRange l

end Sys2Proof.Machine
end

