-- ==== Sys2Proof/Machine/Operands.lean ====
section
/-! DEFINITION. What the operands of a command mean (30_encoding.md R62; 40_generator.md R100, R105). -/

namespace Sys2Proof.Machine

/-- `p = LEVEL + 1` (10_state.md R24, R100). -/
def State.power (s : State) : Nat := s.arch.level.toNat + 1

/-- `s = 2^p`, the side of the matrix (R24, R100). -/
def State.size (s : State) : Nat := 2 ^ s.power

/-- A coordinate modulo the side of a map of power `p` (R105). -/
def wrap (p : Nat) (coord : Word) : Nat := coord.toNat % 2 ^ p

/-- A level operand is too large (R110; unsigned 32-bit compare). -/
def levelTooLarge (level : Word) : Bool := decide (Config.LMAX < level.toNat)

/-- `cmd.A[3:0]`, the level SETLVL stores (R110). -/
def levelOperand (level : Word) : BitVec 4 := level.extractLsb' 0 4

/-- A TCELL coordinate is outside the matrix (R111). -/
def State.outside (s : State) (coord : Word) : Bool := decide (s.size ≤ coord.toNat)

end Sys2Proof.Machine
end

