-- ==== Sys2Proof/Machine/Ops.lean ====
section
/-! DEFINITION. The operations the rules of files 40 to 42 share: `respond` (00_scope.md R10), `raise`
(60_exceptions.md R203; the block's counterpart of taking an exception, with no return, R207), the writes of S, the CFG
word (42_control.md R164). -/

namespace Sys2Proof.Machine

/-- `S.LEVEL <- v`. -/
def State.setLevel (s : State) (v : BitVec 4) : State := { s with arch := { s.arch with level := v } }

/-- `S.MAP_VALID <- v`. -/
def State.setMapValid (s : State) (v : Bool) : State := { s with arch := { s.arch with mapValid := v } }

/-- `respond(rc, d, r0, r1)`: the one response of the command, TAG and OP echoed (R10, R67). -/
def State.respond (s : State) (tag : BitVec 8) (op : BitVec 4) (rc : ResultCode) (d : Bool) (r0 r1 : Word) : State :=
  { s with responses := s.responses ++ [{ tag := tag, op := op, rc := rc, d := d, r0 := r0, r1 := r1 }] }

/-- `raise E()`: set the STATUS bit of E, then `respond(E, 0, 0, 0)` (R203). -/
def State.raise (s : State) (tag : BitVec 8) (op : BitVec 4) (e : ErrorCause) : State :=
  (s.setStatus (causeBit e)).respond tag op (.error e) false 0 0

/-- A word that is no legal command raises ILLEGAL, its TAG and raw OP echoed (30_encoding.md R64, R65; R201). -/
def State.raiseIllegal (s : State) (w : CommandWord) : State := s.raise (tagField w) (opField w) .illegal

/-- `cfg_word(S) = {ID, VERSION, 0b0000, LMAX, 0b000, MAP_VALID, LEVEL}` (R164). -/
def Arch.cfgWord (a : Arch) : Word :=
  Config.ID ++ Config.VERSION ++ (0 : BitVec 4) ++ BitVec.ofNat 4 Config.LMAX ++ (0 : BitVec 3)
    ++ BitVec.ofBool a.mapValid ++ a.level

/-- `zext_32(S.STATUS)`; bits 6 and up read as 0 (10_state.md R25). -/
def Arch.statusWord (a : Arch) : Word := a.status.setWidth 32

end Sys2Proof.Machine
end

