-- ==== Sys2Proof/Machine/Rank.lean ====
section
/-! DEFINITION. The generator as pure functions (40_generator.md R100 to R106), and the other constructions R109 and R113
allow. -/

namespace Sys2Proof.Machine

/-- The loop of R102: `mask` from `m - 1` down to 0, output bit index `bit`, result so far `r`. -/
def rankLoop (a j : Nat) : Nat → Nat → Nat → Nat
  | 0, _, r => r
  | m + 1, bit, r =>
    rankLoop a j m (bit + 2) (r ||| (j.testBit m).toNat <<< bit ||| (a.testBit m).toNat <<< (bit + 1))

/-- `rank_p(i, j)` (R102), with `a = i XOR j` (R101). -/
def rank (p i j : Nat) : Nat := rankLoop (i ^^^ j) j p 0 0

/-- `thr_bits(r, p)` (R106). -/
def thrBits (r p : Nat) : Word :=
  if r = 0 then 0
  else
    let e := r.log2
    (0 : BitVec 1) ++ BitVec.ofNat 8 (127 + e - 2 * p) ++ BitVec.ofNat 23 ((r - 2 ^ e) <<< (23 - e))

/-! ### Other constructions of the same cells -/

/-- The implementation parameter (00_scope.md R8). -/
inductive Impl where
  /-- A combinatorial rank network. -/
  | comb
  /-- A table rebuilt on SETLVL. -/
  | lut
deriving DecidableEq, Repr

/-- R109 (a): the one network of `rank_12` on left-aligned coordinates. -/
def rankComb (p i j : Nat) : Nat := rank Config.PMAX (i <<< (Config.PMAX - p)) (j <<< (Config.PMAX - p))

/-- R109 (b), 10_state.md R30: the table of `s^2` entries, row by row. -/
def lutTable (p : Nat) : List (Nat × Word) :=
  (List.range (4 ^ p)).map fun k =>
    (rank p (k / 2 ^ p) (k % 2 ^ p), thrBits (rank p (k / 2 ^ p) (k % 2 ^ p)) p)

/-- Reading cell `(i, j)` of a table of power `p`. -/
def lutRead (p : Nat) (table : List (Nat × Word)) (i j : Nat) : Option (Nat × Word) := table[i * 2 ^ p + j]?

/-- The cell `(rank, threshold)` as an implementation forms it (R109); none outside its table. -/
def generate (impl : Impl) (p i j : Nat) : Option (Nat × Word) :=
  match impl with
  | .comb => some (rankComb p i j, thrBits (rankComb p i j) p)
  | .lut => lutRead p (lutTable p) i j

/-- The 2 by 2 pattern `B(row, col)` (R113). -/
def basePattern (row col : Nat) : Nat :=
  match row, col with
  | 0, 0 => 0
  | 0, _ => 3
  | _, 0 => 2
  | _, _ => 1

/-- The recursive construction by tiling and offsetting (R113), of a power at least 1. -/
def rankTiled : Nat → Nat → Nat → Nat
  | 0, _, _ => 0
  | p + 1, i, j => 4 * rankTiled p (i % 2 ^ p) (j % 2 ^ p) + basePattern (i / 2 ^ p) (j / 2 ^ p)

end Sys2Proof.Machine
end

