-- ==== Sys2Proof/Machine/Generator.lean ====
section
/-! DEFINITION. SETLVL, TCELL and TSAMPLE (40_generator.md R110 to R112). -/

namespace Sys2Proof.Machine

/-- `respond(OK, d, zext_32(r), thr_bits(r, p))`, the answer of a cell read (R69, R111, R112, R136). -/
def State.respondCell (s : State) (tag : BitVec 8) (op : BitVec 4) (d : Bool) (r : Nat) : State :=
  s.respond tag op .ok d (BitVec.ofNat 32 r) (thrBits r s.power)

/-- The rank of the wrapped cell of pixel `(x, y)`: row from y, column from x (R105). -/
def State.sampleRank (s : State) (x y : Word) : Nat := rank s.power (wrap s.power y) (wrap s.power x)

/-- SETLVL (R110). -/
def execSetlvl (tag : BitVec 8) (level : Word) (s : State) : Host.Outcome State Fault Refusal :=
  if levelTooLarge level then .next ((s.setMapValid false).raise tag Opcode.setlvl .param)
  else .next (((s.setLevel (levelOperand level)).setMapValid true).respond tag Opcode.setlvl .ok false 0 0)

/-- TCELL (R111): NOMAP, then RANGE, then the cell. -/
def execTcell (tag : BitVec 8) (i j : Word) (s : State) : Host.Outcome State Fault Refusal :=
  if !s.arch.mapValid then .next (s.raise tag Opcode.tcell .nomap)
  else if s.outside i || s.outside j then .next (s.raise tag Opcode.tcell .range)
  else .next (s.respondCell tag Opcode.tcell false (rank s.power i.toNat j.toNat))

/-- TSAMPLE (R112). -/
def execTsample (tag : BitVec 8) (x y : Word) (s : State) : Host.Outcome State Fault Refusal :=
  if !s.arch.mapValid then .next (s.raise tag Opcode.tsample .nomap)
  else .next (s.respondCell tag Opcode.tsample false (s.sampleRank x y))

end Sys2Proof.Machine
end

