-- ==== Sys2Proof/Machine/Comparator.lean ====
section
/-! DEFINITION. TCMP and DITHER (41_comparator.md R135, R136). -/

namespace Sys2Proof.Machine

/-- TCMP (R135): no map is needed, and the threshold is classified for NaN only. -/
def execTcmp (tag : BitVec 8) (lum thr : Word) (s : State) : Host.Outcome State Fault Refusal :=
  .next (((s.setStatusIf (nanOfPair lum thr) .nanSeen).setStatusIf (oorOfLuminance lum) .oorSeen).respond
    tag Opcode.tcmp .ok (decideOn lum thr) 0 0)

/-- DITHER (R136): NOMAP before anything is compared (60_exceptions.md R204). -/
def execDither (tag : BitVec 8) (x y lum : Word) (s : State) : Host.Outcome State Fault Refusal :=
  if !s.arch.mapValid then .next (s.raise tag Opcode.dither .nomap)
  else .next (((s.setStatusIf (nanOfLuminance lum) .nanSeen).setStatusIf (oorOfLuminance lum) .oorSeen).respondCell
    tag Opcode.dither (decideOn lum (thrBits (s.sampleRank x y) s.power)) (s.sampleRank x y))

end Sys2Proof.Machine
end

