-- ==== Sys2Proof/Machine/Control.lean ====
section
/-! DEFINITION. NOP, GETCFG and CLRSTAT (42_control.md R160, R165, R166). -/

namespace Sys2Proof.Machine

/-- NOP (R160). -/
def execNop (tag : BitVec 8) (s : State) : Host.Outcome State Fault Refusal :=
  .next (s.respond tag Opcode.nop .ok false 0 0)

/-- GETCFG (R165): a pure read. -/
def execGetcfg (tag : BitVec 8) (s : State) : Host.Outcome State Fault Refusal :=
  .next (s.respond tag Opcode.getcfg .ok false s.arch.cfgWord s.arch.statusWord)

/-- CLRSTAT (R166): the STATUS from before, and the selected bits cleared, in one step (20_memory.md R50). -/
def execClrstat (tag : BitVec 8) (mask : BitVec 6) (s : State) : Host.Outcome State Fault Refusal :=
  .next ((s.clearStatus mask).respond tag Opcode.clrstat .ok false 0 s.arch.statusWord)

end Sys2Proof.Machine
end

