-- ==== Sys2Proof/Machine/Dispatch.lean ====
section
/-! DEFINITION. One arm per command. -/

namespace Sys2Proof.Machine

/-- The effect of a legal command on the machine (00_scope.md R11). -/
def exec (i : Instr) (s : State) : Host.Outcome State Fault Refusal :=
  match i with
  | .nop tag => Sys2Proof.Machine.execNop tag s
  | .setlvl tag level => Sys2Proof.Machine.execSetlvl tag level s
  | .getcfg tag => Sys2Proof.Machine.execGetcfg tag s
  | .clrstat tag mask => Sys2Proof.Machine.execClrstat tag mask s
  | .tcell tag row col => Sys2Proof.Machine.execTcell tag row col s
  | .tsample tag x y => Sys2Proof.Machine.execTsample tag x y s
  | .tcmp tag lum thr => Sys2Proof.Machine.execTcmp tag lum thr s
  | .dither tag x y lum => Sys2Proof.Machine.execDither tag x y lum s

end Sys2Proof.Machine
end

