-- ==== Sys2Proof/Machine/Ports.lean ====
section
/-! DEFINITION. The ports and what a clock edge does around the execution of a command (20_memory.md R41 to R43;
70_reset_and_hazards.md R240 to R250). -/

namespace Sys2Proof.Machine

/-- A cycle in which the host drives every line low and the block holds nothing back: what an unscripted cycle is
(DESIGN CHOICE, log entry 2). -/
def Cycle.idle : Cycle :=
  { rst := false, cmdValid := false, cmdData := 0, rspReady := false, stall := 0, delay := 0, take := 0 }

/-- The cycle that ends at the coming edge. -/
def State.cycle (s : State) : Cycle := s.script.headD Cycle.idle

/-! ### The outputs in that cycle -/

/-- `rsp_valid`: low in reset (R240), else high while a response is pending; it does not wait for `rsp_ready` (R246). -/
def rspValid (s : State) : Bool :=
  match s.phase with
  | .reset => false
  | .waking _ => !s.responses.isEmpty
  | .running => !s.responses.isEmpty

/-- `rsp_data`, while `rsp_valid` is high; the spec gives it no value otherwise (log entry 9). Before the first reset the
spec lets it be any word (R240, 93_implementation_defined.md U12): that it is the word of a response, and stable (R246),
even then is the model's choice (DESIGN CHOICE, unsafe for a block never reset, log entry 16). -/
def rspData (s : State) : Option ResponseWord :=
  if rspValid s then s.responses.head?.map encodeResponse else none

/-- The response that transfers at the coming edge, if one does (R43). -/
def rspBeat (s : State) : Option Response :=
  if !s.cycle.rst && rspValid s && s.cycle.rspReady then s.responses.head? else none

/-- The accepted commands whose responses have not been taken (R8, R248). -/
def outstanding (s : State) : Nat := s.accepted.length + s.responses.length

/-- There is room for one more command, counting a response taken at the same edge as gone (R248, log entry 5). -/
def hasRoom (s : State) : Bool := decide (outstanding s < Config.DEPTH + (rspBeat s).toList.length)

/-- `cmd_ready`: low in reset (R240); after it low for `RST_LAT` cycles at the most (R243); then low while the block holds
it so (R246 (c)); never high without room (R248). -/
def cmdReady (s : State) : Bool :=
  match s.phase with
  | .reset => false
  | .waking lowFor => (decide (s.stall = 0) || decide (Config.rstLat ≤ lowFor)) && hasRoom s
  | .running => decide (s.stall = 0) && hasRoom s

/-- The words a transfer may take: `cmd_data` (R43), and of a host that changed or withdrew its word any that it has
offered since the last transfer (R245, log entry 8). -/
def offeredWords (s : State) : List CommandWord := s.cycle.cmdData :: s.held

/-- The word a transfer takes, by the block's choice among those (R43, R245). -/
def takenWord (s : State) : CommandWord := (offeredWords s).getD s.cycle.take s.cycle.cmdData

/-- The command that transfers at the coming edge, if one does (R43). -/
def cmdBeat (s : State) : Option CommandWord :=
  if !s.cycle.rst && s.cycle.cmdValid && cmdReady s then some (takenWord s) else none

/-! ### The edge -/

/-- One edge less to wait. -/
def Accepted.tick (a : Accepted) : Accepted := { a with wait := a.wait - 1, delay := a.delay - 1 }

/-- A command just transferred, with the rest of `LAT` and the block's own delay to wait (R8, log entries 4 and 11). -/
def accept (delay : Nat) (w : CommandWord) : Accepted := { word := w, wait := Config.latPred, delay := delay }

/-- The words offered without a transfer: none after a transfer, else one more if the host offers a new one (R245). -/
def heldNext (s : State) : List CommandWord :=
  if (cmdBeat s).isSome then []
  else if s.cycle.cmdValid && !s.held.contains s.cycle.cmdData then s.held ++ [s.cycle.cmdData]
  else s.held

/-- A response is offered and not taken at the coming edge. -/
def rspStalled (s : State) : Bool := rspValid s && (rspBeat s).isNone

/-- The block's hold of `cmd_ready` after an edge. A hold runs out; the block may begin another when none is left, or
while the host leaves a response untaken, so that only such a host can be held off for ever (R246 (c), R248, R250; log
entry 11). -/
def stallNext (s : State) : Nat :=
  if decide (s.stall = 0) || rspStalled s then s.cycle.stall else s.stall - 1

/-- The reset sequence at an edge with `rst = 0` (R240, R243). -/
def phaseNext (s : State) : Phase :=
  match s.phase with
  | .reset => .waking 0
  | .waking lowFor => if cmdReady s then .running else .waking (lowFor + 1)
  | .running => .running

/-- An edge with `rst = 0`: both beats transfer, and the latencies run (R43; order: log entry 1). -/
def clockEdge (s : State) : State :=
  { s with
    phase := phaseNext s
    accepted := s.accepted.map Accepted.tick ++ (cmdBeat s).toList.map (accept s.cycle.delay)
    responses := s.responses.drop (rspBeat s).toList.length
    held := heldNext s
    stall := stallNext s
    script := s.script.tail
    received := s.received ++ (rspBeat s).toList }

/-- No edge is left to wait. -/
def Accepted.due (a : Accepted) : Bool := decide (a.wait = 0) && decide (a.delay = 0)

/-- The oldest accepted command, taken off the FIFO, if it is due. -/
def issue (s : State) : Option (CommandWord × State) :=
  match s.accepted with
  | [] => none
  | a :: rest => if a.due then some (a.word, { s with accepted := rest }) else none

/-- An edge with `rst = 1`: nothing transfers, the block takes its reset values, and in-flight work is dropped (R240 to
R242). -/
def resetEdge (s : State) : State :=
  { State.reset with script := s.script.tail, received := s.received }

end Sys2Proof.Machine
end

