-- ==== Sys2Proof/Machine/Step.lean ====
section
/-! DEFINITION. One step: one rising edge of `clk`. -/

namespace Sys2Proof.Machine

/-- Execute one command word: its command, or ILLEGAL (30_encoding.md R64). -/
def execWord (w : CommandWord) (s : State) : Host.Outcome State Fault Refusal :=
  match decode w with
  | .ok i => exec i s
  | .error _ => .next (s.raiseIllegal w)

/-- A rising edge of `clk`: reset, or the beats and then the oldest command if it is due (R11, R42, R43, R240). -/
def step (s : State) : Host.Outcome State Fault Refusal :=
  if s.cycle.rst then .next (resetEdge s)
  else
    match issue (clockEdge s) with
    | some (w, t) => execWord w t
    | none => .next (clockEdge s)

/-- `s` with the command `w` as the oldest accepted one and due, so that it runs at the coming edge, which is no reset.
The command is 128 bits, those at `nbits` and above being 0 (log entry 7). -/
def State.withFetchWord (s : State) (nbits w : Nat) : State :=
  { s with
    phase := .running
    accepted := { word := BitVec.ofNat 128 (w % 2 ^ nbits), wait := 0, delay := 0 } :: s.accepted.tail
    script := { s.cycle with rst := false } :: s.script.tail }

end Sys2Proof.Machine
end

