-- ==== Sys2Proof/Machine/Assembler.lean ====
section
/-! DEFINITION. The assembler of 30_encoding.md R71 and R72: text to lines, lines to command words, decimal literals to
binary32. No behaviour of the block depends on it (92_eei_decisions.md D29). -/

namespace Sys2Proof.Machine

/-! ### Decimal literals: round to nearest, ties to even (R71) -/

/-- `n / d` rounded to the nearest whole number, ties to even. -/
def divRoundEven (n d : Nat) : Nat :=
  let q := n / d
  let r := n % d
  if 2 * r < d then q
  else if d < 2 * r then q + 1
  else if q % 2 = 0 then q else q + 1

/-- How many bits the whole number of units `u` (of `2^(-149)`) has above the 24 a binary32 value can hold. -/
def excessBits (u : Nat) : Nat := u.log2 - 23

/-- The pattern, sign bit 0, of the binary32 value nearest to `num / den`; past the largest finite value it is infinity
(PRESUMED, log entry 12). The significand rounded in units of `2^excess` carries into the exponent by itself. -/
def nearestPattern (num den : Nat) : Nat :=
  let k := excessBits (num * 2 ^ 149 / den)
  min (k * 2 ^ 23 + divRoundEven (num * 2 ^ 149) (den * 2 ^ k)) 0x7F800000

/-- The field of an `f32` operand (R71). -/
def F32Literal.field : F32Literal → Word
  | .bits v => BitVec.ofNat 32 v
  | .decimal neg digits scale =>
    BitVec.ofNat 32 ((if neg then 2 ^ 31 else 0) + nearestPattern digits (10 ^ scale))

/-! ### Lines to words -/

/-- The command of a line's mnemonic and operands, pseudo-instructions expanded (R63, R72). -/
def asmInstr (tag : BitVec 8) : AsmOp → Instr
  | .nop => .nop tag
  | .setlvl level => .setlvl tag (BitVec.ofNat 32 level)
  | .getcfg => .getcfg tag
  | .clrstat mask => .clrstat tag (BitVec.ofNat 6 mask)
  | .tcell i j => .tcell tag (BitVec.ofNat 32 i) (BitVec.ofNat 32 j)
  | .tsample x y => .tsample tag (BitVec.ofNat 32 x) (BitVec.ofNat 32 y)
  | .tcmp lum thr => .tcmp tag (F32Literal.field lum) (F32Literal.field thr)
  | .dither x y lum => .dither tag (BitVec.ofNat 32 x) (BitVec.ofNat 32 y) (F32Literal.field lum)
  | .clrall => .clrstat tag 0x3F
  | .rdstat => .clrstat tag 0
  | .sync => .nop tag

/-- The word of a line; a line whose operands do not fit is rejected (R71, R72). -/
def assemble (line : AsmLine) : Option CommandWord :=
  if line.wellFormed then
    match line with
    | .command tag op => some (encode (asmInstr (BitVec.ofNat 8 (tag.getD 0)) op))
    | .raw h a b c => some (BitVec.ofNat 32 c ++ BitVec.ofNat 32 b ++ BitVec.ofNat 32 a ++ BitVec.ofNat 32 h)
  else none

/-! ### Text to lines -/

/-- White space between the parts of a line. -/
def isBlank (c : Char) : Bool := c == ' ' || c == '\t'

/-- A text without white space at either end. -/
def trim (cs : List Char) : List Char := ((cs.dropWhile isBlank).reverse.dropWhile isBlank).reverse

/-- The pieces of a text between the occurrences of `sep`. -/
def pieces (sep : Char) (cs : List Char) : List (List Char) :=
  cs.foldr (fun c out =>
    if c == sep then [] :: out
    else match out with
      | [] => [[c]]
      | p :: ps => (c :: p) :: ps) [[]]

/-- The value of a digit in base 16 or below. -/
def digitValue (c : Char) : Nat :=
  if '0' ≤ c ∧ c ≤ '9' then c.toNat - '0'.toNat
  else if 'a' ≤ c ∧ c ≤ 'f' then c.toNat - 'a'.toNat + 10
  else if 'A' ≤ c ∧ c ≤ 'F' then c.toNat - 'A'.toNat + 10
  else 16

/-- One or more digits in `base`. -/
def parseDigits (base : Nat) (cs : List Char) : Option Nat :=
  if !cs.isEmpty && cs.all (fun c => decide (digitValue c < base)) then
    some (cs.foldl (fun n c => base * n + digitValue c) 0)
  else none

/-- A decimal or `0x` hexadecimal literal (R71). -/
def parseNat (cs : List Char) : Option Nat :=
  match cs with
  | '0' :: 'x' :: hex => parseDigits 16 hex
  | _ => parseDigits 10 cs

/-- A decimal literal without its sign: digits, or digits, a point, digits. -/
def parseUnsigned (neg : Bool) (cs : List Char) : Option F32Literal :=
  match pieces '.' cs with
  | [whole] => (parseDigits 10 whole).map fun n => .decimal neg n 0
  | [whole, part] =>
    (parseDigits 10 whole).bind fun _ => (parseDigits 10 part).bind fun _ =>
      (parseDigits 10 (whole ++ part)).map fun n => .decimal neg n part.length
  | _ => none

/-- An `f32` operand: `f:0x` and eight hexadecimal digits, or a decimal literal (R71). A decimal literal may have a minus
sign, and takes no plus sign and no exponent: R71 leaves this unsaid (DESIGN CHOICE, log entry 12). -/
def parseF32 (cs : List Char) : Option F32Literal :=
  match cs with
  | 'f' :: ':' :: '0' :: 'x' :: hex => if hex.length = 8 then (parseDigits 16 hex).map .bits else none
  | '-' :: rest => parseUnsigned true rest
  | _ => parseUnsigned false cs

/-- The mnemonic and operands, in the order of R63 and R72. -/
def parseOp (name : List Char) (args : List (List Char)) : Option AsmOp :=
  if name = "NOP".toList then (match args with | [] => some .nop | _ => none)
  else if name = "SETLVL".toList then
    (match args with | [a] => (parseNat a).map .setlvl | _ => none)
  else if name = "GETCFG".toList then (match args with | [] => some .getcfg | _ => none)
  else if name = "CLRSTAT".toList then
    (match args with | [a] => (parseNat a).map .clrstat | _ => none)
  else if name = "TCELL".toList then
    (match args with | [a, b] => (parseNat a).bind fun i => (parseNat b).map fun j => .tcell i j | _ => none)
  else if name = "TSAMPLE".toList then
    (match args with | [a, b] => (parseNat a).bind fun x => (parseNat b).map fun y => .tsample x y | _ => none)
  else if name = "TCMP".toList then
    (match args with | [a, b] => (parseF32 a).bind fun l => (parseF32 b).map fun t => .tcmp l t | _ => none)
  else if name = "DITHER".toList then
    (match args with
      | [a, b, c] =>
        (parseNat a).bind fun x => (parseNat b).bind fun y => (parseF32 c).map fun l => .dither x y l
      | _ => none)
  else if name = "CLRALL".toList then (match args with | [] => some .clrall | _ => none)
  else if name = "RDSTAT".toList then (match args with | [] => some .rdstat | _ => none)
  else if name = "SYNC".toList then (match args with | [] => some .sync | _ => none)
  else none

/-- RAW and its four words (R72). -/
def parseRaw (args : List (List Char)) : Option AsmLine :=
  match args with
  | [h, a, b, c] =>
    (parseNat h).bind fun h => (parseNat a).bind fun a => (parseNat b).bind fun b =>
      (parseNat c).map fun c => .raw h a b c
  | _ => none

/-- A mnemonic with or without the suffix `.tN`, and its operands (R71); RAW takes no suffix (R72). N is read in decimal
digits only: R71 leaves its spelling unsaid (DESIGN CHOICE, log entry 12). -/
def parseCommand (head : List Char) (args : List (List Char)) : Option AsmLine :=
  match pieces '.' head with
  | [name] => if name = "RAW".toList then parseRaw args else (parseOp name args).map (.command none)
  | [name, 't' :: n] => (parseDigits 10 n).bind fun t => (parseOp name args).map (.command (some t))
  | _ => none

/-- A line of text: the comment dropped, the mnemonic up to the first white space, the operands between commas (R71). -/
def parseLine (cs : List Char) : Option AsmLine :=
  let body := trim (cs.takeWhile (fun c => c != ';'))
  let head := body.takeWhile (fun c => !isBlank c)
  let rest := trim (body.dropWhile (fun c => !isBlank c))
  parseCommand head (if rest.isEmpty then [] else (pieces ',' rest).map trim)

/-- The word of a line of text, if it is one and its operands fit (R71). -/
def assembleText (text : String) : Option CommandWord := (parseLine text.toList).bind assemble

end Sys2Proof.Machine
end

