-- ==== Sys2Proof/Safety.lean ====
section
/-! DEFINITION. The terms statements use: a command's answer, the values of R130 as rationals, the rank as the sum of
R103, the states a run can reach, and the sequential reading of a run (70_reset_and_hazards.md R251). -/

namespace Sys2Proof.Machine

/-! ### What executing a command may change -/

/-- `s` after a command that left S as `a` and answered `r`; nothing else changed. -/
def State.answered (s : State) (a : Arch) (r : Response) : State :=
  { s with arch := a, responses := s.responses ++ [r] }

/-- What every response keeps to: zero data on an error (30_encoding.md R69, 60_exceptions.md R203), and a decision only
from TCMP or DITHER with OK (R67). -/
def Response.Proper (r : Response) : Prop :=
  (∀ e, r.rc = .error e → r.d = false ∧ r.r0 = 0 ∧ r.r1 = 0) ∧ (r.d = true → r.op = 6 ∨ r.op = 7)

/-- The bits of a command word that its opcode uses, from bit 0 up (30_encoding.md R66): the header, and the operand
fields R63 names. -/
def usedBits (op : BitVec 4) : Nat :=
  match op.toNat with
  | 0 => 32
  | 1 => 64
  | 2 => 32
  | 3 => 38
  | 4 => 96
  | 5 => 96
  | 6 => 96
  | _ => 128

/-! ### Binary32, as 41_comparator.md R130 writes it -/

/-- NaN by its fields. -/
def IsNaN (v : Word) : Prop := v.extractLsb' 23 8 = 255 ∧ v.extractLsb' 0 23 ≠ 0

/-- Neither NaN nor infinite. -/
def IsFinite (v : Word) : Prop := v.extractLsb' 23 8 ≠ 255

/-- `val32` of a finite field, as a rational (R130). -/
def valQ (v : Word) : ℚ :=
  (-1) ^ (v.getLsbD 31).toNat *
    (if v.extractLsb' 23 8 = 0 then ((v.extractLsb' 0 23).toNat : ℚ) * 2 ^ (-149 : ℤ)
     else (1 + ((v.extractLsb' 0 23).toNat : ℚ) * 2 ^ (-23 : ℤ)) * 2 ^ (((v.extractLsb' 23 8).toNat : ℤ) - 127))

/-- `val32` of a field that is not NaN, over the extended rationals (R130). -/
def valX (v : Word) : WithBot (WithTop ℚ) :=
  if v.extractLsb' 23 8 = 255 then (if v.getLsbD 31 then ⊥ else ((⊤ : WithTop ℚ) : WithBot (WithTop ℚ)))
  else ((valQ v : WithTop ℚ) : WithBot (WithTop ℚ))

/-- `gt32`, second line and first (R132). -/
def Greater (l t : Word) : Prop := ¬IsNaN l ∧ ¬IsNaN t ∧ valX t < valX l

/-- `OOR` (R133). -/
def OutsideUnit (l : Word) : Prop :=
  ¬IsNaN l ∧ (valX l < ((0 : ℚ) : WithTop ℚ) ∨ (((1 : ℚ) : WithTop ℚ) : WithBot (WithTop ℚ)) < valX l)

/-! ### The generator, as its closed form (40_generator.md R103) -/

/-- The second line of R103's closed form, as a sum. -/
def rankSum (p i j : Nat) : Nat :=
  ∑ k ∈ Finset.range p, ((j.testBit (p - 1 - k)).toNat * 4 ^ k + ((i ^^^ j).testBit (p - 1 - k)).toNat * 2 * 4 ^ k)

/-- `t` is the binary32 field of `r / s^2` for a map of power `p`, zero being `+0.0` (R106, 00_scope.md R10). -/
def IsThreshold (t : Word) (r p : Nat) : Prop := t.getLsbD 31 = false ∧ IsFinite t ∧ valQ t = (r : ℚ) / 4 ^ p

/-- The power of the current map (R100). -/
def mapPower (s : State) : Nat := s.arch.level.toNat + 1

/-! ### States a run can reach -/

/-- What every edge keeps. -/
structure Inv (s : State) : Prop where
  /-- LEVEL holds only 0 to 11 (10_state.md R24). -/
  level : s.arch.level.toNat ≤ 11
  /-- At most DEPTH commands without a taken response (70_reset_and_hazards.md R248). -/
  depth : s.accepted.length + s.responses.length ≤ Config.DEPTH
  /-- No command waits longer than LAT asks (00_scope.md R8). -/
  latency : ∀ a ∈ s.accepted, a.wait < Config.LAT
  /-- `cmd_ready` has been low for at most RST_LAT cycles after reset (R243). -/
  waking : ∀ n, s.phase = .waking n → n ≤ Config.rstLat
  /-- Until `cmd_ready` has been high, the block is as reset left it (R31, R243). -/
  quiet : s.phase ≠ .running → s.accepted = [] ∧ s.responses = [] ∧ s.arch = Arch.reset
  /-- Every response keeps to R67 and R69. -/
  proper : ∀ r ∈ s.responses ++ s.received, Response.Proper r

/-- The host keeps what it offered (R245 (a)). -/
def HostKeepsOffer (s : State) : Prop :=
  ∀ w ∈ s.held, s.cycle.rst = false → s.cycle.cmdValid = true ∧ s.cycle.cmdData = w

/-- A cycle in which the host resets nothing and takes a response, whatever else it and the block do. -/
def Cycle.Drains (c : Cycle) : Prop := c.rst = false ∧ c.rspReady = true

/-- `s`, of the words the host has offered the one at place `k` to be taken (R245). -/
def State.taking (s : State) (k : Nat) : State :=
  { s with script := { s.cycle with take := k } :: s.script.tail }

/-! ### Runs without end (R248): a schedule gives every cycle, so that no run meets the end of a script -/

/-- `s` before an edge that brings `c`. -/
def State.facing (s : State) (c : Cycle) : State := { s with script := [c] }

/-- The state in cycle `n` of the run from `s` in which cycle `k` is `env k`. -/
def during (env : Nat → Cycle) (s : State) : Nat → State
  | 0 => s.facing (env 0)
  | n + 1 =>
    match step (during env s n) with
    | .next t => t.facing (env (n + 1))
    | .fault _ => during env s n
    | .refused _ => during env s n

/-- The host never resets the block, and whenever a response is offered it eventually raises `rsp_ready`: the premise of
R248, and all of it. -/
def FairHost (env : Nat → Cycle) (s : State) : Prop :=
  (∀ n, (env n).rst = false) ∧ ∀ n, rspValid (during env s n) = true → ∃ m ≥ n, (env m).rspReady = true

/-- In the whole run the host keeps to R245 (a), as its ports show: after a cycle without reset in which it offered a word
that did not transfer, it offers that word again. -/
def OffersKept (env : Nat → Cycle) (s : State) : Prop :=
  ∀ n, (env n).rst = false → (env n).cmdValid = true → cmdBeat (during env s n) = none →
    (env (n + 1)).cmdValid = true ∧ (env (n + 1)).cmdData = (env n).cmdData

/-- How many responses have been formed, taken or still to be taken. -/
def formed (s : State) : Nat := s.received.length + s.responses.length

/-! ### Operands of assembly (30_encoding.md R71) -/

/-- The bounds of an `f32` literal: an exact pattern has 32 bits (R71); a decimal has none (PRESUMED, log entry 12). -/
def LiteralFits : F32Literal → Prop
  | .bits v => v < 2 ^ 32
  | .decimal _ _ _ => True

/-- `f` is the field of an `f32` literal: the exact pattern, or the rounded decimal with its sign. What the rounding gives
is the statement DecimalLiteralsRoundToNearest. -/
def IsLiteralField : F32Literal → Word → Prop
  | .bits v, f => f.toNat = v
  | .decimal neg digits scale, f => f = F32Literal.field (.decimal neg digits scale) ∧ f.getLsbD 31 = neg

/-! ### The sequential reading (R11, R251) -/

/-- The responses to one word executed on S, and S after it. -/
def replyOf (w : CommandWord) (a : Arch) : List Response × Arch :=
  match execWord w { State.reset with arch := a } with
  | .next t => (t.responses, t.arch)
  | .fault _ => ([], a)
  | .refused _ => ([], a)

/-- The responses to a list of words executed one after another, and S after them (R251). -/
def sequential : List CommandWord → Arch → List Response × Arch
  | [], a => ([], a)
  | w :: ws, a =>
    ((replyOf w a).1 ++ (sequential ws (replyOf w a).2).1, (sequential ws (replyOf w a).2).2)

/-- All the responses a state stands for, taken, offered or still to come, if `more` follow what it has accepted; and S
when all of them are done. -/
def State.view (s : State) (more : List CommandWord) : List Response × Arch :=
  (s.received ++ s.responses ++ (sequential (s.accepted.map (·.word) ++ more) s.arch).1,
   (sequential (s.accepted.map (·.word) ++ more) s.arch).2)

/-- `n` edges. -/
def runEdges (n : Nat) (s : State) : Host.Outcome State Fault Refusal := Host.Core.run Sys2Proof.core n s

/-- The words the block accepts in the next `n` edges. -/
def acceptedIn : Nat → State → List CommandWord
  | 0, _ => []
  | n + 1, s =>
    match step s with
    | .next t => (cmdBeat s).toList ++ acceptedIn n t
    | .fault _ => (cmdBeat s).toList
    | .refused _ => (cmdBeat s).toList

/-- None of the next `n` edges is a reset. -/
def NoReset (n : Nat) (s : State) : Prop := ∀ c ∈ s.script.take n, c.rst = false

/-- The level operand of the last SETLVL in a list of words (10_state.md R23). -/
def lastSetlvl : List CommandWord → Option Word
  | [] => none
  | w :: ws =>
    match lastSetlvl ws, decode w with
    | some l, _ => some l
    | none, .ok (.setlvl _ l) => some l
    | none, _ => none

/-- The level operand of the last SETLVL at or below 11 in a list of words. -/
def lastGoodLevel : List CommandWord → Option Word
  | [] => none
  | w :: ws =>
    match lastGoodLevel ws, decode w with
    | some l, _ => some l
    | none, .ok (.setlvl _ l) => if l.toNat ≤ 11 then some l else none
    | none, _ => none

end Sys2Proof.Machine
end

