-- ==== Sys2Proof/Certificates/Slice0/Obligations.lean ====
section
/-! DEFINITION. The statements for the provers. Each says which rule of the spec it formalises. -/

open Sys2Proof Sys2Proof.Machine

/-! ### Encoding -/

/-- Six of the words 30_encoding.md R73 writes out are read as the commands it names. -/
def Obligations.SpecWordsDecode : Prop :=
  decode 0x00000000000000000000000200000001#128 = .ok (.setlvl 0 2) ∧
  decode 0x00000000000000000000000000000902#128 = .ok (.getcfg 9) ∧
  decode 0x00000000000000000000003F00000003#128 = .ok (.clrstat 0 0x3F) ∧
  decode 0x00000000000000020000000100000004#128 = .ok (.tcell 0 1 2) ∧
  decode 0x000000003E8000003E851EB800000006#128 = .ok (.tcmp 0 0x3E851EB8 0x3E800000) ∧
  decode 0x3E800000000000010000000100000507#128 = .ok (.dither 5 1 1 0x3E800000)

/-- No bit of a command is lost by its encoding: every command, with every operand. -/
def Obligations.DecodeOfEncodeIsIdentity : Prop :=
  ∀ i : Instr, decode (encode i) = .ok i

/-- R64: a word is a command exactly when the header match holds for a k in 0 to 7. -/
def Obligations.HeaderMatchDecodes : Prop :=
  ∀ w : CommandWord,
    ((∃ i, decode w = .ok i) ↔ (w.getLsbD 3 = false ∧ w.extractLsb' 4 4 = 0 ∧ w.extractLsb' 16 16 = 0)) ∧
    ((∃ i, decode w = .ok i) ↔ ∃ k < 8, w.extractLsb' 0 32 &&& 0xFFFF00FF#32 = BitVec.ofNat 32 k)

/-- R65: every reserved encoding raises ILLEGAL, whatever the state: E_ILL is set, TAG and raw OP are echoed, and nothing
else happens. -/
def Obligations.ReservedEncodingsRaiseIllegal : Prop :=
  ∀ (w : CommandWord) (s : State),
    (8 ≤ (w.extractLsb' 0 4).toNat ∨ w.extractLsb' 4 4 ≠ 0 ∨ w.extractLsb' 16 16 ≠ 0) →
      execWord w s = .next (s.answered ⟨s.arch.level, s.arch.mapValid, s.arch.status ||| 0b000001#6⟩
        ⟨w.extractLsb' 8 8, w.extractLsb' 0 4, .error .illegal, false, 0, 0⟩)

/-- R61, R62, R63: a decoded command has the opcode, tag and operands that stand in the fields of its word. -/
def Obligations.DecodedOperandsAreWordFields : Prop :=
  ∀ (w : CommandWord) (i : Instr), decode w = .ok i →
    match i with
    | .nop tag => w.extractLsb' 0 4 = 0x0#4 ∧ tag = w.extractLsb' 8 8
    | .setlvl tag level => w.extractLsb' 0 4 = 0x1#4 ∧ tag = w.extractLsb' 8 8 ∧ level = w.extractLsb' 32 32
    | .getcfg tag => w.extractLsb' 0 4 = 0x2#4 ∧ tag = w.extractLsb' 8 8
    | .clrstat tag mask => w.extractLsb' 0 4 = 0x3#4 ∧ tag = w.extractLsb' 8 8 ∧ mask = w.extractLsb' 32 6
    | .tcell tag row col =>
      w.extractLsb' 0 4 = 0x4#4 ∧ tag = w.extractLsb' 8 8 ∧ row = w.extractLsb' 32 32 ∧ col = w.extractLsb' 64 32
    | .tsample tag x y =>
      w.extractLsb' 0 4 = 0x5#4 ∧ tag = w.extractLsb' 8 8 ∧ x = w.extractLsb' 32 32 ∧ y = w.extractLsb' 64 32
    | .tcmp tag lum thr =>
      w.extractLsb' 0 4 = 0x6#4 ∧ tag = w.extractLsb' 8 8 ∧ lum = w.extractLsb' 32 32 ∧ thr = w.extractLsb' 64 32
    | .dither tag x y lum =>
      w.extractLsb' 0 4 = 0x7#4 ∧ tag = w.extractLsb' 8 8 ∧ x = w.extractLsb' 32 32 ∧ y = w.extractLsb' 64 32 ∧
        lum = w.extractLsb' 96 32

/-- R66: words that agree on the bits the opcode uses are read and executed alike. -/
def Obligations.UnusedOperandFieldsIgnored : Prop :=
  ∀ w v : CommandWord,
    w.extractLsb' 0 (usedBits (w.extractLsb' 0 4)) = v.extractLsb' 0 (usedBits (w.extractLsb' 0 4)) →
      decode w = decode v ∧ ∀ s : State, execWord w s = execWord v s

/-- R67, R68: where the fields of a response stand in its word; the word gives the response back, and only a word of that
form, with a result code of 0 to 4, is read as a response. -/
def Obligations.ResponseWordCarriesItsFields : Prop :=
  (∀ r : Response,
    (encodeResponse r).extractLsb' 0 8 = r.tag ∧
    (encodeResponse r).extractLsb' 8 4 = r.op ∧
    (encodeResponse r).extractLsb' 12 4 =
      (match r.rc with
        | .ok => 0 | .error .illegal => 1 | .error .nomap => 2 | .error .param => 3 | .error .range => 4) ∧
    (encodeResponse r).getLsbD 16 = r.d ∧
    (encodeResponse r).extractLsb' 17 15 = 0 ∧
    (encodeResponse r).extractLsb' 32 32 = r.r0 ∧
    (encodeResponse r).extractLsb' 64 32 = r.r1 ∧
    decodeResponse (encodeResponse r) = some r) ∧
  (∀ (w : ResponseWord) (r : Response), decodeResponse w = some r → encodeResponse r = w) ∧
  (∀ w : ResponseWord, 5 ≤ (w.extractLsb' 12 4).toNat → decodeResponse w = none)

/-- 20_memory.md R44, R45: byte k of a serialised command or response is bits [8k+7:8k] and lane k bits [32k+31:32k];
whole words come back, and no other number of bytes or lanes is a word. -/
def Obligations.SerialLinksAreLittleEndian : Prop :=
  (∀ (w : CommandWord) (k : Nat), k < 16 → (commandBytes w)[k]? = some (w.extractLsb' (8 * k) 8)) ∧
  (∀ (w : CommandWord) (k : Nat), k < 4 → (commandLanes w)[k]? = some (w.extractLsb' (32 * k) 32)) ∧
  (∀ (w : ResponseWord) (k : Nat), k < 12 → (responseBytes w)[k]? = some (w.extractLsb' (8 * k) 8)) ∧
  (∀ (w : ResponseWord) (k : Nat), k < 3 → (responseLanes w)[k]? = some (w.extractLsb' (32 * k) 32)) ∧
  (∀ (c : CommandWord) (r : ResponseWord), (commandBytes c).length = 16 ∧ (commandLanes c).length = 4 ∧
    (responseBytes r).length = 12 ∧ (responseLanes r).length = 3) ∧
  (∀ w : CommandWord, commandOfBytes (commandBytes w) = some w ∧ commandOfLanes (commandLanes w) = some w) ∧
  (∀ w : ResponseWord, responseOfBytes (responseBytes w) = some w ∧ responseOfLanes (responseLanes w) = some w) ∧
  (∀ bs : List Byte, (bs.length ≠ 16 → commandOfBytes bs = none) ∧ (bs.length ≠ 12 → responseOfBytes bs = none)) ∧
  (∀ ls : List Word, (ls.length ≠ 4 → commandOfLanes ls = none) ∧ (ls.length ≠ 3 → responseOfLanes ls = none))

/-! ### The generator -/

/-- R103: the bits of the rank, and the rank as a sum. -/
def Obligations.RankHasClosedForm : Prop :=
  ∀ p i j : Nat,
    (∀ k < p, (rank p i j).testBit (2 * k) = j.testBit (p - 1 - k) ∧
      (rank p i j).testBit (2 * k + 1) = (i.testBit (p - 1 - k) ^^ j.testBit (p - 1 - k))) ∧
    rank p i j = rankSum p i j

/-- R104: the range of the rank, and where its two ends are. -/
def Obligations.RankRangeIsFull : Prop :=
  ∀ p i j : Nat,
    rank p i j ≤ 2 ^ (2 * p) - 1 ∧ rank p 0 0 = 0 ∧ rank p 0 (2 ^ p - 1) = 2 ^ (2 * p) - 1

/-- R113: the rank of the next power, from the rank of the quarter and the 2 by 2 pattern; so the tiled construction is
the same matrix. -/
def Obligations.RankIsTiledRecursively : Prop :=
  (basePattern 0 0 = 0 ∧ basePattern 0 1 = 3 ∧ basePattern 1 0 = 2 ∧ basePattern 1 1 = 1) ∧
  (∀ ih < 2, ∀ jh < 2, rank 1 ih jh = basePattern ih jh) ∧
  (∀ p ih jh il jl : Nat, ih < 2 → jh < 2 → il < 2 ^ p → jl < 2 ^ p →
    rank (p + 1) (ih * 2 ^ p + il) (jh * 2 ^ p + jl) = 4 * rank p il jl + basePattern ih jh) ∧
  (∀ p i j : Nat, i < 2 ^ p → j < 2 ^ p → rankTiled p i j = rank p i j)

/-- R107: the ranks of a matrix are a permutation, so every threshold occurs exactly once. -/
def Obligations.RanksAreAPermutation : Prop :=
  (∀ p : Nat, Set.BijOn (fun c : ℕ × ℕ => rank p c.1 c.2) {c | c.1 < 2 ^ p ∧ c.2 < 2 ^ p} {r | r < 2 ^ (2 * p)}) ∧
  (∀ p k : Nat, 1 ≤ p → p ≤ 12 → k < 2 ^ (2 * p) →
    ∃! c : ℕ × ℕ, (c.1 < 2 ^ p ∧ c.2 < 2 ^ p) ∧ valQ (thrBits (rank p c.1 c.2) p) = (k : ℚ) / (2 ^ p) ^ 2)

/-- R108: at every level cell (0, 1) and cell (1, 0) differ. -/
def Obligations.MatrixIsNeverSymmetric : Prop :=
  ∀ p : Nat, 1 ≤ p →
    rank p 0 1 = 3 * 4 ^ (p - 1) ∧ rank p 1 0 = 2 * 4 ^ (p - 1) ∧ rank p 0 1 ≠ rank p 1 0

/-- R109, R30: the network on left-aligned coordinates and the table form the same cell as R102 and R106. -/
def Obligations.ImplementationsFormTheSameCells : Prop :=
  ∀ (impl : Impl) (p i j : Nat), 1 ≤ p → p ≤ 12 → i < 2 ^ p → j < 2 ^ p →
    generate impl p i j = some (rank p i j, thrBits (rank p i j) p)

/-- R106: the threshold field is the exact quotient, in [0, 1), and normal when it is not zero. -/
def Obligations.ThresholdBitsAreExact : Prop :=
  ∀ p r : Nat, 1 ≤ p → p ≤ 12 → r < 2 ^ (2 * p) →
    IsThreshold (thrBits r p) r p ∧ 0 ≤ valQ (thrBits r p) ∧ valQ (thrBits r p) < 1 ∧
    (r = 0 → thrBits r p = 0x00000000#32) ∧
    (r ≠ 0 → 103 ≤ ((thrBits r p).extractLsb' 23 8).toNat ∧ ((thrBits r p).extractLsb' 23 8).toNat ≤ 126)

/-- R105: TSAMPLE and DITHER do not change when the side of the map is added to a coordinate. -/
def Obligations.SamplingIsToroidal : Prop :=
  ∀ (s : State) (tag : BitVec 8) (x y lum : Word),
    (x.toNat + 2 ^ mapPower s < 2 ^ 32 →
      exec (.tsample tag (x + BitVec.ofNat 32 (2 ^ mapPower s)) y) s = exec (.tsample tag x y) s ∧
      exec (.dither tag (x + BitVec.ofNat 32 (2 ^ mapPower s)) y lum) s = exec (.dither tag x y lum) s) ∧
    (y.toNat + 2 ^ mapPower s < 2 ^ 32 →
      exec (.tsample tag x (y + BitVec.ofNat 32 (2 ^ mapPower s))) s = exec (.tsample tag x y) s ∧
      exec (.dither tag x (y + BitVec.ofNat 32 (2 ^ mapPower s)) lum) s = exec (.dither tag x y lum) s)

/-- R110: SETLVL of a level up to 11 sets it and makes the map valid; above 11 it raises PARAM, drops the map and keeps
the level. -/
def Obligations.SetlvlSetsLevelOrRaisesParam : Prop :=
  ∀ (s : State) (tag : BitVec 8) (level : Word),
    (level.toNat ≤ 11 → ∃ v : BitVec 4, v.toNat = level.toNat ∧
      exec (.setlvl tag level) s =
        .next (s.answered ⟨v, true, s.arch.status⟩ ⟨tag, 0x1, .ok, false, 0, 0⟩)) ∧
    (11 < level.toNat →
      exec (.setlvl tag level) s =
        .next (s.answered ⟨s.arch.level, false, s.arch.status ||| 0b000100#6⟩
          ⟨tag, 0x1, .error .param, false, 0, 0⟩))

/-- R111: TCELL answers rank and threshold of cell (A, B); without a map NOMAP; outside the matrix RANGE. -/
def Obligations.TcellReadsItsCell : Prop :=
  ∀ (s : State) (tag : BitVec 8) (row col : Word), s.arch.level.toNat ≤ 11 →
    (s.arch.mapValid = true → row.toNat < 2 ^ mapPower s → col.toNat < 2 ^ mapPower s →
      ∃ r0 r1 : Word, exec (.tcell tag row col) s = .next (s.answered s.arch ⟨tag, 0x4, .ok, false, r0, r1⟩) ∧
        r0.toNat = rankSum (mapPower s) row.toNat col.toNat ∧ IsThreshold r1 r0.toNat (mapPower s)) ∧
    (s.arch.mapValid = true → (2 ^ mapPower s ≤ row.toNat ∨ 2 ^ mapPower s ≤ col.toNat) →
      exec (.tcell tag row col) s =
        .next (s.answered ⟨s.arch.level, s.arch.mapValid, s.arch.status ||| 0b001000#6⟩
          ⟨tag, 0x4, .error .range, false, 0, 0⟩)) ∧
    (s.arch.mapValid = false →
      exec (.tcell tag row col) s =
        .next (s.answered ⟨s.arch.level, s.arch.mapValid, s.arch.status ||| 0b000010#6⟩
          ⟨tag, 0x4, .error .nomap, false, 0, 0⟩))

/-- R112: TSAMPLE answers rank and threshold of cell (y mod s, x mod s); without a map NOMAP. -/
def Obligations.TsampleReadsTheWrappedCell : Prop :=
  ∀ (s : State) (tag : BitVec 8) (x y : Word), s.arch.level.toNat ≤ 11 →
    (s.arch.mapValid = true →
      ∃ r0 r1 : Word, exec (.tsample tag x y) s = .next (s.answered s.arch ⟨tag, 0x5, .ok, false, r0, r1⟩) ∧
        r0.toNat = rankSum (mapPower s) (y.toNat % 2 ^ mapPower s) (x.toNat % 2 ^ mapPower s) ∧
        IsThreshold r1 r0.toNat (mapPower s)) ∧
    (s.arch.mapValid = false →
      exec (.tsample tag x y) s =
        .next (s.answered ⟨s.arch.level, s.arch.mapValid, s.arch.status ||| 0b000010#6⟩
          ⟨tag, 0x5, .error .nomap, false, 0, 0⟩))

/-- R112, corner cases: inside the matrix `TSAMPLE x, y` answers what `TCELL y, x` does. -/
def Obligations.TsampleIsTcellSwapped : Prop :=
  ∀ (s : State) (tag : BitVec 8) (x y : Word),
    s.arch.mapValid = true → x.toNat < 2 ^ mapPower s → y.toNat < 2 ^ mapPower s →
      ∃ r0 r1 : Word,
        exec (.tsample tag x y) s = .next (s.answered s.arch ⟨tag, 0x5, .ok, false, r0, r1⟩) ∧
        exec (.tcell tag y x) s = .next (s.answered s.arch ⟨tag, 0x4, .ok, false, r0, r1⟩)

/-! ### The comparator -/

/-- R130: NaN, the infinities and the finite values are those of the formula, in units of 2^(-149). -/
def Obligations.BinaryValuesFollowTheFormula : Prop :=
  ∀ v : Word,
    (val32 v = .nan ↔ IsNaN v) ∧
    (¬IsNaN v → ¬IsFinite v → val32 v = .infinity (v.getLsbD 31)) ∧
    (IsFinite v → ∃ m : ℤ, val32 v = .finite m ∧ (m : ℚ) * 2 ^ (-149 : ℤ) = valQ v)

/-- R132: the comparator is the exact greater-than over the extended reals, and false on NaN. -/
def Obligations.GreaterThanIsTheExactOrder : Prop :=
  ∀ l t : Word, gt32 l t = true ↔ Greater l t

/-- R133: the two classes of luminance. -/
def Obligations.InputClassesAreThoseOfTheSpec : Prop :=
  ∀ l : Word, (isNaN32 l = true ↔ IsNaN l) ∧ (outOfRange l = true ↔ OutsideUnit l)

/-- R137: comparing ordered-integer keys decides alike. -/
def Obligations.KeyComparatorDecidesAlike : Prop :=
  ∀ l t : Word, gtByKey l t = gt32 l t

/-- R137: against a threshold of the map the decision is the exact rational test, a sign of 1 is off, a value of 1 or
more is on, and the fixed-point comparator decides alike. -/
def Obligations.FixedPointComparatorDecidesAlike : Prop :=
  ∀ (p r : Nat) (l : Word), 1 ≤ p → p ≤ 12 → r < 2 ^ (2 * p) →
    (IsFinite l → (gt32 l (thrBits r p) = true ↔ (r : ℚ) < valQ l * 2 ^ (2 * p))) ∧
    (l.getLsbD 31 = true → gt32 l (thrBits r p) = false) ∧
    (¬IsNaN l → ((1 : ℚ) : WithTop ℚ) ≤ valX l → gt32 l (thrBits r p) = true) ∧
    onFixedPoint p r l = gt32 l (thrBits r p)

/-- R135: TCMP answers the decision, needs no map, and sets NAN_SEEN and OOR_SEEN as their conditions hold. -/
def Obligations.TcmpComparesItsOperands : Prop :=
  ∀ (s : State) (tag : BitVec 8) (lum thr : Word), ∃ (d : Bool) (status : BitVec 6),
    exec (.tcmp tag lum thr) s =
      .next (s.answered ⟨s.arch.level, s.arch.mapValid, status⟩ ⟨tag, 0x6, .ok, d, 0, 0⟩) ∧
    (d = true ↔ Greater lum thr) ∧
    (∀ k < 4, status.getLsbD k = s.arch.status.getLsbD k) ∧
    (status.getLsbD 4 = true ↔ s.arch.status.getLsbD 4 = true ∨ IsNaN lum ∨ IsNaN thr) ∧
    (status.getLsbD 5 = true ↔ s.arch.status.getLsbD 5 = true ∨ OutsideUnit lum)

/-- R136: DITHER answers decision, rank and threshold of the wrapped cell and sets the two flags; without a map it raises
NOMAP and sets neither. -/
def Obligations.DitherDecidesThePixel : Prop :=
  ∀ (s : State) (tag : BitVec 8) (x y lum : Word), s.arch.level.toNat ≤ 11 →
    (s.arch.mapValid = true →
      ∃ (d : Bool) (status : BitVec 6) (r0 r1 : Word),
        exec (.dither tag x y lum) s =
          .next (s.answered ⟨s.arch.level, s.arch.mapValid, status⟩ ⟨tag, 0x7, .ok, d, r0, r1⟩) ∧
        r0.toNat = rankSum (mapPower s) (y.toNat % 2 ^ mapPower s) (x.toNat % 2 ^ mapPower s) ∧
        IsThreshold r1 r0.toNat (mapPower s) ∧
        (d = true ↔ Greater lum r1) ∧
        (∀ k < 4, status.getLsbD k = s.arch.status.getLsbD k) ∧
        (status.getLsbD 4 = true ↔ s.arch.status.getLsbD 4 = true ∨ IsNaN lum) ∧
        (status.getLsbD 5 = true ↔ s.arch.status.getLsbD 5 = true ∨ OutsideUnit lum)) ∧
    (s.arch.mapValid = false →
      exec (.dither tag x y lum) s =
        .next (s.answered ⟨s.arch.level, s.arch.mapValid, s.arch.status ||| 0b000010#6⟩
          ⟨tag, 0x7, .error .nomap, false, 0, 0⟩))

/-- R138: a run of DITHER commands of luminance 1.0 is all on, and one of 0.0 all off, with one response each. -/
def Obligations.UniformImagesAreUniform : Prop :=
  ∀ (a : Arch) (ws : List CommandWord) (white : Bool), a.mapValid = true → a.level.toNat ≤ 11 →
    (∀ w ∈ ws, ∃ tag x y, decode w = .ok (.dither tag x y (if white then 0x3F800000 else 0x00000000))) →
      (sequential ws a).1.length = ws.length ∧ ∀ r ∈ (sequential ws a).1, r.rc = .ok ∧ r.d = white

/-- R139: reordering a run of DITHER commands reorders its responses, and leaves the same S. -/
def Obligations.DitherOrderDoesNotMatter : Prop :=
  ∀ (a : Arch) (ws vs : List CommandWord),
    (∀ w ∈ ws, ∃ tag x y lum, decode w = .ok (.dither tag x y lum)) → ws.Perm vs →
      (sequential ws a).1.Perm (sequential vs a).1 ∧ (sequential ws a).2 = (sequential vs a).2

/-- R46, R139: with a map, the response of TCELL, TSAMPLE, TCMP and DITHER depends only on the command and LEVEL; that of
TCMP on the command alone. -/
def Obligations.CellResponsesDependOnLevelOnly : Prop :=
  ∀ (a b : Arch) (tag : BitVec 8) (x y z : Word),
    (replyOf (encode (.tcmp tag x y)) a).1 = (replyOf (encode (.tcmp tag x y)) b).1 ∧
    (a.level = b.level → a.mapValid = true → b.mapValid = true →
      (replyOf (encode (.tcell tag x y)) a).1 = (replyOf (encode (.tcell tag x y)) b).1 ∧
      (replyOf (encode (.tsample tag x y)) a).1 = (replyOf (encode (.tsample tag x y)) b).1 ∧
      (replyOf (encode (.dither tag x y z)) a).1 = (replyOf (encode (.dither tag x y z)) b).1)

/-! ### Control commands and errors -/

/-- R160: NOP changes nothing, and its response word is its tag. -/
def Obligations.NopEchoesItsTag : Prop :=
  ∀ (s : State) (tag : BitVec 8), ∃ r : Response,
    exec (.nop tag) s = .next (s.answered s.arch r) ∧ encodeResponse r = tag.setWidth 96

/-- R164, R165: GETCFG changes nothing and answers the CFG word, field by field, and STATUS. -/
def Obligations.GetcfgReadsConfiguration : Prop :=
  ∀ (s : State) (tag : BitVec 8), ∃ cfg stat : Word,
    exec (.getcfg tag) s = .next (s.answered s.arch ⟨tag, 0x2, .ok, false, cfg, stat⟩) ∧
    cfg.extractLsb' 0 4 = s.arch.level ∧ cfg.getLsbD 4 = s.arch.mapValid ∧ cfg.extractLsb' 5 3 = 0 ∧
    cfg.extractLsb' 8 4 = 0xB#4 ∧ cfg.extractLsb' 12 4 = 0 ∧ cfg.extractLsb' 16 8 = 0x01#8 ∧
    cfg.extractLsb' 24 8 = 0xB7#8 ∧ stat.toNat = s.arch.status.toNat

/-- R166: CLRSTAT answers the STATUS from before and clears the selected bits, and no others. -/
def Obligations.ClrstatReadsAndClears : Prop :=
  ∀ (s : State) (tag : BitVec 8) (mask : BitVec 6), ∃ (status : BitVec 6) (old : Word),
    exec (.clrstat tag mask) s =
      .next (s.answered ⟨s.arch.level, s.arch.mapValid, status⟩ ⟨tag, 0x3, .ok, false, 0, old⟩) ∧
    old.toNat = s.arch.status.toNat ∧
    ∀ k < 6, status.getLsbD k = (s.arch.status.getLsbD k && !mask.getLsbD k)

/-- 20_memory.md R50, 10_state.md R26: a CLRSTAT among other commands. It answers the STATUS that all earlier ones left, in
which every bit set since the CLRSTAT before it stands; and what it does not clear, and what later commands without a
CLRSTAT set, is set at the end. -/
def Obligations.ClrstatLosesNoEvent : Prop :=
  ∀ (a : Arch) (before since after : List CommandWord) (tag : BitVec 8) (mask : BitVec 6),
    (∀ w ∈ since ++ after, ∀ t m, decode w ≠ .ok (.clrstat t m)) →
      ∃ old : Word,
        (sequential (before ++ since ++ encode (.clrstat tag mask) :: after) a).1[before.length + since.length]? =
          some ⟨tag, 0x3, .ok, false, 0, old⟩ ∧
        old.toNat = (sequential (before ++ since) a).2.status.toNat ∧
        (∀ k < 6, (sequential before a).2.status.getLsbD k = true → old.getLsbD k = true) ∧
        ∀ k < 6,
          ((sequential (before ++ since ++ encode (.clrstat tag mask) :: after) a).2.status.getLsbD k = true ↔
            (old.getLsbD k = true ∧ mask.getLsbD k = false) ∨
            (sequential after ⟨(sequential (before ++ since) a).2.level, (sequential (before ++ since) a).2.mapValid, 0⟩).2.status.getLsbD
              k = true)

/-- 10_state.md R26: no command other than CLRSTAT writes a 0 into STATUS. -/
def Obligations.StatusBitsAreSticky : Prop :=
  ∀ (w : CommandWord) (s t : State), (∀ tag mask, decode w ≠ .ok (.clrstat tag mask)) → execWord w s = .next t →
    ∀ k, s.arch.status.getLsbD k = true → t.arch.status.getLsbD k = true

/-- R203: `raise` sets the one STATUS bit of its cause, answers the code with zero data, and writes no other state. -/
def Obligations.RaiseSetsItsBitAndAnswers : Prop :=
  ∀ (s : State) (tag : BitVec 8) (op : BitVec 4) (e : ErrorCause),
    s.raise tag op e =
      s.answered ⟨s.arch.level, s.arch.mapValid, s.arch.status |||
        (match e with | .illegal => 0b000001#6 | .nomap => 0b000010#6 | .param => 0b000100#6 | .range => 0b001000#6)⟩
        ⟨tag, op, .error e, false, 0, 0⟩

/-- R201, R204: which result code a word gets in a state, in the order of priority; a failing word sets the STATUS bit of
that code and no other. -/
def Obligations.FirstErrorInPriorityIsReported : Prop :=
  ∀ (w : CommandWord) (s : State), ∃ (a : Arch) (r : Response), execWord w s = .next (s.answered a r) ∧
    r.rc =
      (match decode w with
        | .error _ => .error .illegal
        | .ok (.tcell _ row col) =>
          if s.arch.mapValid = false then .error .nomap
          else if 2 ^ mapPower s ≤ row.toNat ∨ 2 ^ mapPower s ≤ col.toNat then .error .range else .ok
        | .ok (.tsample _ _ _) => if s.arch.mapValid = false then .error .nomap else .ok
        | .ok (.dither _ _ _ _) => if s.arch.mapValid = false then .error .nomap else .ok
        | .ok (.setlvl _ level) => if 11 < level.toNat then .error .param else .ok
        | .ok _ => .ok) ∧
    (∀ e, r.rc = .error e → a.status = s.arch.status |||
      (match e with | .illegal => 0b000001#6 | .nomap => 0b000010#6 | .param => 0b000100#6 | .range => 0b001000#6))

/-- R10, R42, R69, R200: every word, legal or not, gets exactly one response, which echoes its TAG and OP, and changes
nothing of the machine but S and the response FIFO. -/
def Obligations.EveryWordIsAnsweredOnce : Prop :=
  ∀ (w : CommandWord) (s : State), ∃ (a : Arch) (r : Response),
    execWord w s = .next (s.answered a r) ∧ r.tag = w.extractLsb' 8 8 ∧ r.op = w.extractLsb' 0 4 ∧ Response.Proper r

/-- R23, R165: after any list of words from reset, MAP_VALID says whether the last SETLVL was accepted, and LEVEL is the
level last accepted, or 0. -/
def Obligations.LevelAndMapFollowSetlvl : Prop :=
  ∀ ws : List CommandWord,
    ((sequential ws Arch.reset).2.mapValid = true ↔ ∃ l, lastSetlvl ws = some l ∧ l.toNat ≤ 11) ∧
    (sequential ws Arch.reset).2.level.toNat = (match lastGoodLevel ws with | some l => l.toNat | none => 0)

/-! ### The machine -/

/-- The state after reset meets the invariant. -/
def Obligations.ResetStateMeetsInv : Prop :=
  Inv State.reset

/-- Every edge keeps the invariant: LEVEL at most 11 (R24), at most DEPTH outstanding (R248), waits within LAT (R8),
`cmd_ready` low for at most RST_LAT cycles after reset (R243), nothing done before it rises, and every response proper
(R67, R69). -/
def Obligations.StepKeepsInv : Prop :=
  ∀ s t : State, Inv s → step s = .next t → Inv t

/-- R240, R241, R242: a reset edge takes any state to the reset values, drops in-flight work, transfers nothing, and both
outputs are low after it. That the host's record `received` and the rest of the script are kept, and no word counts as
offered, is the model's choice (log entries 3, 2 and 8). -/
def Obligations.ResetEdgeFromAnyState : Prop :=
  ∀ s : State, s.cycle.rst = true → cmdBeat s = none ∧ rspBeat s = none ∧
    ∃ t, step s = .next t ∧ t.arch.level = 0 ∧ t.arch.mapValid = false ∧ t.arch.status = 0 ∧
      t.accepted = [] ∧ t.responses = [] ∧ t.held = [] ∧ t.received = s.received ∧ t.script = s.script.tail ∧
      cmdReady t = false ∧ rspValid t = false

/-- R43: when each stream transfers, and what (the host keeping its offer, R245; log entry 8). A transferred response goes
to the host, a transferred command to the end of the accepted FIFO; at any other edge without reset neither moves. That at
most the oldest command is taken off the FIFO at an edge is the model's choice (log entry 1), and so is the record
`received` of what the host took (log entry 3). -/
def Obligations.BeatsFollowTheHandshake : Prop :=
  ∀ s : State,
    ((cmdBeat s).isSome = true ↔ s.cycle.rst = false ∧ s.cycle.cmdValid = true ∧ cmdReady s = true) ∧
    (HostKeepsOffer s → ∀ w, cmdBeat s = some w → w = s.cycle.cmdData) ∧
    ((rspBeat s).isSome = true ↔ s.cycle.rst = false ∧ rspValid s = true ∧ s.cycle.rspReady = true) ∧
    (∀ r, rspBeat s = some r → rspData s = some (encodeResponse r)) ∧
    (∀ t, step s = .next t → t.received = s.received ++ (rspBeat s).toList) ∧
    (∀ t, s.cycle.rst = false → step s = .next t →
      t.accepted.map (·.word) = s.accepted.map (·.word) ++ (cmdBeat s).toList ∨
      ∃ w, w :: t.accepted.map (·.word) = s.accepted.map (·.word) ++ (cmdBeat s).toList)

/-- R245: of a host that changed or withdrew its word the block takes a word offered before or the new one, and may take
each. Held words are exactly those the host offered since the last transfer or reset, so that over two edges the old word is
one offered without a transfer. That a host which broke R245 (a) more than once may find any of its words taken is the
model's choice (log entry 8). -/
def Obligations.BrokenOfferTakesEitherWord : Prop :=
  ∀ s : State,
    (∀ w, cmdBeat s = some w → w = s.cycle.cmdData ∨ w ∈ s.held) ∧
    (∀ w, s.cycle.rst = false → s.cycle.cmdValid = true → cmdReady s = true → w = s.cycle.cmdData ∨ w ∈ s.held →
      ∃ k, cmdBeat (s.taking k) = some w) ∧
    (∀ t w, step s = .next t →
      (w ∈ t.held ↔ s.cycle.rst = false ∧ cmdBeat s = none ∧
        (w ∈ s.held ∨ s.cycle.cmdValid = true ∧ w = s.cycle.cmdData))) ∧
    (∀ t w, step s = .next t → s.cycle.rst = false → cmdBeat t = some w →
      w = t.cycle.cmdData ∨
      cmdBeat s = none ∧ (w ∈ s.held ∨ s.cycle.cmdValid = true ∧ w = s.cycle.cmdData))

/-- R43, R245, at the ports: in any run from a block to which nothing was offered, a command that transfers in cycle n is
the word offered in cycle n, or one offered in an earlier cycle with neither a transfer nor a reset since; and of a host that
keeps to R245 (a) it is the word offered in cycle n. -/
def Obligations.TransferredWordWasOffered : Prop :=
  ∀ (env : Nat → Cycle) (s : State) (n : Nat) (w : CommandWord), s.held = [] → cmdBeat (during env s n) = some w →
    (w = (env n).cmdData ∨
      ∃ m < n, (env m).cmdValid = true ∧ (env m).cmdData = w ∧
        ∀ k, m ≤ k → k < n → (env k).rst = false ∧ cmdBeat (during env s k) = none) ∧
    (OffersKept env s → w = (env n).cmdData)

/-- R246 (a): a response offered and not taken stays offered, unchanged, over an edge without reset. -/
def Obligations.OfferedResponseIsStable : Prop :=
  ∀ s t : State, rspValid s = true → s.cycle.rst = false → s.cycle.rspReady = false → step s = .next t →
    rspValid t = true ∧ rspData t = rspData s

/-- When the oldest accepted command has no edge left to wait, the edge is `exec` of the command its word decodes to, in
the state with the beats, the reset sequence, the held words, the hold of `cmd_ready` and the script moved on; and
`withFetchWord` places a command so. The order inside the edge and one execution an edge are the model's choice (log
entry 1), and so is what `withFetchWord` sets (log entry 7). -/
def Obligations.StepRunsTheDecodedCommand : Prop :=
  (∀ (s : State) (w : CommandWord) (i : Instr) (rest : List Accepted),
    s.cycle.rst = false → (clockEdge s).accepted = ⟨w, 0, 0⟩ :: rest → decode w = .ok i →
      step s = exec i
        { arch := s.arch, phase := phaseNext s, accepted := rest, responses := s.responses.drop (rspBeat s).toList.length
          held := heldNext s, stall := stallNext s, script := s.script.tail, received := s.received ++ (rspBeat s).toList }) ∧
  (∀ (s : State) (nbits w : Nat) (i : Instr), decodeTableWord nbits w = some i →
    step (s.withFetchWord nbits w) =
      exec i { clockEdge (s.withFetchWord nbits w) with accepted := (clockEdge (s.withFetchWord nbits w)).accepted.tail })

/-- R200: no edge stops the machine: every step of every state has a next state. -/
def Obligations.StepNeverStops : Prop :=
  ∀ s : State, ∃ t, step s = .next t

/-- R11, R29, R42 at one edge: whatever the timing, an edge without reset leaves what the state stands for as it was, but
for the command that transfers, which comes last. -/
def Obligations.EdgeKeepsTheSequentialReading : Prop :=
  ∀ (s t : State) (more : List CommandWord), s.cycle.rst = false → step s = .next t →
    t.view more = s.view ((cmdBeat s).toList ++ more)

/-- R42, R251: over any run of edges without reset from an idle block, the responses taken, offered and to come, and S,
are those of the accepted words executed one after another; when nothing is left in flight, the host has taken exactly
them. -/
def Obligations.RunIsSequentialExecution : Prop :=
  ∀ (n : Nat) (s t : State), s.accepted = [] → s.responses = [] → s.received = [] → NoReset n s →
    runEdges n s = .next t →
      t.view [] = sequential (acceptedIn n s) s.arch ∧
      (t.accepted = [] → t.responses = [] → (t.received, t.arch) = sequential (acceptedIn n s) s.arch)

/-- R248, with a bound: if the host takes a response in every cycle, then after enough edges, whatever it offers meanwhile,
it has taken the responses to all that was accepted at the start, in order; and if it offered nothing, nothing is left in
flight, and `cmd_ready` is high unless the block holds it low. The bound counts the waits, which are the model's form of the
block's timing (log entries 4 and 11). -/
def Obligations.AcceptedCommandsAreAnswered : Prop :=
  ∀ (s : State) (n : Nat), s.phase = .running → n ≤ s.script.length → (∀ c ∈ s.script.take n, c.Drains) →
    (s.accepted.map fun a => a.wait + a.delay).sum + 2 * s.accepted.length + s.responses.length ≤ n →
      ∃ t, runEdges n s = .next t ∧
        s.received ++ s.responses ++ (sequential (s.accepted.map (·.word)) s.arch).1 <+: t.received ∧
        ((∀ c ∈ s.script.take n, c.cmdValid = false) →
          t.accepted = [] ∧ t.responses = [] ∧
          t.received = s.received ++ s.responses ++ (sequential (s.accepted.map (·.word)) s.arch).1 ∧
          (t.stall = 0 → cmdReady t = true))

/-- R248, first part: of a host that never resets and eventually raises `rsp_ready` whenever a response is offered, and of
nothing else, the response to every command in flight, and to every command accepted in the run, is eventually offered, in
its place in the order. That the block's own delays are finite by their form is the model's choice (log entry 11). -/
def Obligations.AcceptedCommandsAreOffered : Prop :=
  ∀ (env : Nat → Cycle) (s : State), FairHost env s →
    (∀ (n j : Nat) (r : Response), ((during env s n).view []).1[j]? = some r → (during env s n).received.length ≤ j →
      ∃ m ≥ n, rspValid (during env s m) = true ∧ rspData (during env s m) = some (encodeResponse r) ∧
        (during env s m).received.length = j) ∧
    (∀ (n : Nat) (w : CommandWord), cmdBeat (during env s n) = some w →
      ∃ r : Response, r.tag = w.extractLsb' 8 8 ∧ r.op = w.extractLsb' 0 4 ∧
        ((during env s (n + 1)).view []).1 = ((during env s n).view []).1 ++ [r] ∧
        ∃ m > n, rspValid (during env s m) = true ∧ rspData (during env s m) = some (encodeResponse r) ∧
          (during env s m).received.length = ((during env s n).view []).1.length)

/-- R248, second part: of such a host, whenever `cmd_valid` is high the block eventually raises `cmd_ready`; and if the host
keeps its offers (R245), the very word it offers eventually transfers. That the block's holds of `cmd_ready` are finite by
their form is the model's choice (log entry 11). -/
def Obligations.OfferedCommandsAreAccepted : Prop :=
  ∀ (env : Nat → Cycle) (s : State), FairHost env s → ∀ n, (env n).cmdValid = true →
    (∃ m ≥ n, cmdReady (during env s m) = true) ∧
    (OffersKept env s → s.held = [] → ∃ m ≥ n, cmdBeat (during env s m) = some (env n).cmdData)

/-- 00_scope.md R8, R249: over edges without reset, no response is formed, and so none offered, before LAT cycles after the
one in which its command transferred. From which edge LAT is counted is DEDUCED (log entry 4). -/
def Obligations.ResponsesWaitTheirLatency : Prop :=
  ∀ (env : Nat → Cycle) (s : State) (n m : Nat) (w : CommandWord), (∀ k, (env k).rst = false) →
    cmdBeat (during env s n) = some w → n ≤ m → m < n + Config.LAT →
      formed (during env s m) ≤ formed (during env s n) + (during env s n).accepted.length

/-- R243: out of reset, `cmd_ready` rises within RST_LAT cycles, whatever the block chooses. -/
def Obligations.ReadyWithinResetLatency : Prop :=
  ∀ s : State, Inv s → s.phase = .reset → NoReset (Config.rstLat + 1) s →
    ∃ k ≤ Config.rstLat, ∃ t, runEdges (k + 1) s = .next t ∧ cmdReady t = true

/-! ### The assembler -/

/-- 30_encoding.md R72: each pseudo-instruction is its expansion, a suffix passing through, and RAW is its four words. -/
def Obligations.PseudoInstructionsExpand : Prop :=
  (∀ tag : Option Nat, assemble (.command tag .clrall) = assemble (.command tag (.clrstat 0x3F)) ∧
    assemble (.command tag .rdstat) = assemble (.command tag (.clrstat 0)) ∧
    assemble (.command tag .sync) = assemble (.command tag .nop)) ∧
  (∀ h a b c : Word, ∃ w, assemble (.raw h.toNat a.toNat b.toNat c.toNat) = some w ∧
    w.extractLsb' 0 32 = h ∧ w.extractLsb' 32 32 = a ∧ w.extractLsb' 64 32 = b ∧ w.extractLsb' 96 32 = c)

/-- R71, R72: a line is assembled exactly when its tag and its operands are in their bounds, and its word decodes to the
command of its mnemonic with its operands in the order of R63, its tag being 0 without a suffix. (RAW and the fields of its
word: PseudoInstructionsExpand; the rounding of decimal literals: DecimalLiteralsRoundToNearest.) In the two clauses on when
a line is assembled, that a decimal `f32` literal of any size fits (PRESUMED) and that the words of RAW are bounded as `u32`
literals (DESIGN CHOICE) is the model's choice, log entry 12; the other bounds are R71's. -/
def Obligations.AssembledLinesDecode : Prop :=
  (∀ (tag : Option Nat) (op : AsmOp), (assemble (.command tag op)).isSome = true ↔
    (∀ n, tag = some n → n ≤ 255) ∧
    (match op with
      | .nop => True
      | .setlvl level => level < 2 ^ 32
      | .getcfg => True
      | .clrstat mask => mask < 64
      | .tcell i j => i < 2 ^ 32 ∧ j < 2 ^ 32
      | .tsample x y => x < 2 ^ 32 ∧ y < 2 ^ 32
      | .tcmp lum thr => LiteralFits lum ∧ LiteralFits thr
      | .dither x y lum => x < 2 ^ 32 ∧ y < 2 ^ 32 ∧ LiteralFits lum
      | .clrall => True
      | .rdstat => True
      | .sync => True)) ∧
  (∀ h a b c : Nat, (assemble (.raw h a b c)).isSome = true ↔ h < 2 ^ 32 ∧ a < 2 ^ 32 ∧ b < 2 ^ 32 ∧ c < 2 ^ 32) ∧
  (∀ (tag : Option Nat) (op : AsmOp) (w : CommandWord), assemble (.command tag op) = some w →
    ∃ t : BitVec 8, t.toNat = tag.getD 0 ∧
    (match op with
      | .nop => decode w = .ok (.nop t)
      | .setlvl level => ∃ l, decode w = .ok (.setlvl t l) ∧ l.toNat = level
      | .getcfg => decode w = .ok (.getcfg t)
      | .clrstat mask => ∃ m, decode w = .ok (.clrstat t m) ∧ m.toNat = mask
      | .tcell i j => ∃ row col, decode w = .ok (.tcell t row col) ∧ row.toNat = i ∧ col.toNat = j
      | .tsample x y => ∃ a b, decode w = .ok (.tsample t a b) ∧ a.toNat = x ∧ b.toNat = y
      | .tcmp lum thr => ∃ l h, decode w = .ok (.tcmp t l h) ∧ IsLiteralField lum l ∧ IsLiteralField thr h
      | .dither x y lum =>
        ∃ a b l, decode w = .ok (.dither t a b l) ∧ a.toNat = x ∧ b.toNat = y ∧ IsLiteralField lum l
      | .clrall => decode w = .ok (.clrstat t 0b111111#6)
      | .rdstat => decode w = .ok (.clrstat t 0b000000#6)
      | .sync => decode w = .ok (.nop t)))

/-- R71: a decimal literal becomes the nearest binary32 value, and of two equally near ones that with an even last bit. -/
def Obligations.DecimalLiteralsRoundToNearest : Prop :=
  ∀ (neg : Bool) (digits scale : Nat), IsFinite (F32Literal.field (.decimal neg digits scale)) →
    ∀ v : Word, IsFinite v → v.getLsbD 31 = neg →
      |valQ (F32Literal.field (.decimal neg digits scale)) - (if neg then -1 else 1) * (digits : ℚ) / 10 ^ scale| ≤
        |valQ v - (if neg then -1 else 1) * (digits : ℚ) / 10 ^ scale| ∧
      (|valQ (F32Literal.field (.decimal neg digits scale)) - (if neg then -1 else 1) * (digits : ℚ) / 10 ^ scale| =
        |valQ v - (if neg then -1 else 1) * (digits : ℚ) / 10 ^ scale| →
          v = F32Literal.field (.decimal neg digits scale) ∨
            (F32Literal.field (.decimal neg digits scale)).getLsbD 0 = false)
end

