-- ==== Sys2Proof/Laws/State.lean ====
section
/-! SUPPORT. One lemma per field per update, so that no later proof unfolds a record update. -/

namespace Sys2Proof.Machine


/-! ### `setLevel` -/

@[simp] theorem setLevel_level (s : State) (v : BitVec 4) : (s.setLevel v).arch.level = v := rfl
@[simp] theorem setLevel_mapValid (s : State) (v : BitVec 4) : (s.setLevel v).arch.mapValid = s.arch.mapValid := rfl
@[simp] theorem setLevel_status (s : State) (v : BitVec 4) : (s.setLevel v).arch.status = s.arch.status := rfl
@[simp] theorem setLevel_phase (s : State) (v : BitVec 4) : (s.setLevel v).phase = s.phase := rfl
@[simp] theorem setLevel_accepted (s : State) (v : BitVec 4) : (s.setLevel v).accepted = s.accepted := rfl
@[simp] theorem setLevel_responses (s : State) (v : BitVec 4) : (s.setLevel v).responses = s.responses := rfl
@[simp] theorem setLevel_held (s : State) (v : BitVec 4) : (s.setLevel v).held = s.held := rfl
@[simp] theorem setLevel_stall (s : State) (v : BitVec 4) : (s.setLevel v).stall = s.stall := rfl
@[simp] theorem setLevel_script (s : State) (v : BitVec 4) : (s.setLevel v).script = s.script := rfl
@[simp] theorem setLevel_received (s : State) (v : BitVec 4) : (s.setLevel v).received = s.received := rfl

/-! ### `setMapValid` -/

@[simp] theorem setMapValid_level (s : State) (v : Bool) : (s.setMapValid v).arch.level = s.arch.level := rfl
@[simp] theorem setMapValid_mapValid (s : State) (v : Bool) : (s.setMapValid v).arch.mapValid = v := rfl
@[simp] theorem setMapValid_status (s : State) (v : Bool) : (s.setMapValid v).arch.status = s.arch.status := rfl
@[simp] theorem setMapValid_phase (s : State) (v : Bool) : (s.setMapValid v).phase = s.phase := rfl
@[simp] theorem setMapValid_accepted (s : State) (v : Bool) : (s.setMapValid v).accepted = s.accepted := rfl
@[simp] theorem setMapValid_responses (s : State) (v : Bool) : (s.setMapValid v).responses = s.responses := rfl
@[simp] theorem setMapValid_held (s : State) (v : Bool) : (s.setMapValid v).held = s.held := rfl
@[simp] theorem setMapValid_stall (s : State) (v : Bool) : (s.setMapValid v).stall = s.stall := rfl
@[simp] theorem setMapValid_script (s : State) (v : Bool) : (s.setMapValid v).script = s.script := rfl
@[simp] theorem setMapValid_received (s : State) (v : Bool) : (s.setMapValid v).received = s.received := rfl

/-! ### `setStatus` -/

@[simp] theorem setStatus_level (s : State) (b : StatusBit) : (s.setStatus b).arch.level = s.arch.level := rfl
@[simp] theorem setStatus_mapValid (s : State) (b : StatusBit) :
    (s.setStatus b).arch.mapValid = s.arch.mapValid := rfl
@[simp] theorem setStatus_status (s : State) (b : StatusBit) :
    (s.setStatus b).arch.status = s.arch.status ||| b.mask := rfl
@[simp] theorem setStatus_phase (s : State) (b : StatusBit) : (s.setStatus b).phase = s.phase := rfl
@[simp] theorem setStatus_accepted (s : State) (b : StatusBit) : (s.setStatus b).accepted = s.accepted := rfl
@[simp] theorem setStatus_responses (s : State) (b : StatusBit) : (s.setStatus b).responses = s.responses := rfl
@[simp] theorem setStatus_held (s : State) (b : StatusBit) : (s.setStatus b).held = s.held := rfl
@[simp] theorem setStatus_stall (s : State) (b : StatusBit) : (s.setStatus b).stall = s.stall := rfl
@[simp] theorem setStatus_script (s : State) (b : StatusBit) : (s.setStatus b).script = s.script := rfl
@[simp] theorem setStatus_received (s : State) (b : StatusBit) : (s.setStatus b).received = s.received := rfl

/-! ### `setStatusIf` -/

@[simp] theorem setStatusIf_level (s : State) (c : Bool) (b : StatusBit) :
    (s.setStatusIf c b).arch.level = s.arch.level := by cases c <;> simp [State.setStatusIf]
@[simp] theorem setStatusIf_mapValid (s : State) (c : Bool) (b : StatusBit) :
    (s.setStatusIf c b).arch.mapValid = s.arch.mapValid := by cases c <;> simp [State.setStatusIf]
@[simp] theorem setStatusIf_status (s : State) (c : Bool) (b : StatusBit) :
    (s.setStatusIf c b).arch.status = s.arch.status ||| (if c then b.mask else 0) := by cases c <;> simp [State.setStatusIf]
@[simp] theorem setStatusIf_phase (s : State) (c : Bool) (b : StatusBit) :
    (s.setStatusIf c b).phase = s.phase := by cases c <;> simp [State.setStatusIf]
@[simp] theorem setStatusIf_accepted (s : State) (c : Bool) (b : StatusBit) :
    (s.setStatusIf c b).accepted = s.accepted := by cases c <;> simp [State.setStatusIf]
@[simp] theorem setStatusIf_responses (s : State) (c : Bool) (b : StatusBit) :
    (s.setStatusIf c b).responses = s.responses := by cases c <;> simp [State.setStatusIf]
@[simp] theorem setStatusIf_held (s : State) (c : Bool) (b : StatusBit) :
    (s.setStatusIf c b).held = s.held := by cases c <;> simp [State.setStatusIf]
@[simp] theorem setStatusIf_stall (s : State) (c : Bool) (b : StatusBit) :
    (s.setStatusIf c b).stall = s.stall := by cases c <;> simp [State.setStatusIf]
@[simp] theorem setStatusIf_script (s : State) (c : Bool) (b : StatusBit) :
    (s.setStatusIf c b).script = s.script := by cases c <;> simp [State.setStatusIf]
@[simp] theorem setStatusIf_received (s : State) (c : Bool) (b : StatusBit) :
    (s.setStatusIf c b).received = s.received := by cases c <;> simp [State.setStatusIf]

/-! ### `clearStatus` -/

@[simp] theorem clearStatus_level (s : State) (m : BitVec 6) : (s.clearStatus m).arch.level = s.arch.level := rfl
@[simp] theorem clearStatus_mapValid (s : State) (m : BitVec 6) :
    (s.clearStatus m).arch.mapValid = s.arch.mapValid := rfl
@[simp] theorem clearStatus_status (s : State) (m : BitVec 6) :
    (s.clearStatus m).arch.status = s.arch.status &&& ~~~m := rfl
@[simp] theorem clearStatus_phase (s : State) (m : BitVec 6) : (s.clearStatus m).phase = s.phase := rfl
@[simp] theorem clearStatus_accepted (s : State) (m : BitVec 6) : (s.clearStatus m).accepted = s.accepted := rfl
@[simp] theorem clearStatus_responses (s : State) (m : BitVec 6) : (s.clearStatus m).responses = s.responses := rfl
@[simp] theorem clearStatus_held (s : State) (m : BitVec 6) : (s.clearStatus m).held = s.held := rfl
@[simp] theorem clearStatus_stall (s : State) (m : BitVec 6) : (s.clearStatus m).stall = s.stall := rfl
@[simp] theorem clearStatus_script (s : State) (m : BitVec 6) : (s.clearStatus m).script = s.script := rfl
@[simp] theorem clearStatus_received (s : State) (m : BitVec 6) : (s.clearStatus m).received = s.received := rfl

/-! ### `respond` -/

@[simp] theorem respond_arch (s : State) (tag : BitVec 8) (op : BitVec 4) (rc : ResultCode) (d : Bool) (r0 r1 : Word) :
    (s.respond tag op rc d r0 r1).arch = s.arch := rfl
@[simp] theorem respond_phase (s : State) (tag : BitVec 8) (op : BitVec 4) (rc : ResultCode) (d : Bool) (r0 r1 : Word) :
    (s.respond tag op rc d r0 r1).phase = s.phase := rfl
@[simp] theorem respond_accepted (s : State) (tag : BitVec 8) (op : BitVec 4) (rc : ResultCode) (d : Bool) (r0 r1 : Word) :
    (s.respond tag op rc d r0 r1).accepted = s.accepted := rfl
@[simp] theorem respond_responses (s : State) (tag : BitVec 8) (op : BitVec 4) (rc : ResultCode) (d : Bool) (r0 r1 : Word) :
    (s.respond tag op rc d r0 r1).responses = s.responses ++ [⟨tag, op, rc, d, r0, r1⟩] := rfl
@[simp] theorem respond_held (s : State) (tag : BitVec 8) (op : BitVec 4) (rc : ResultCode) (d : Bool) (r0 r1 : Word) :
    (s.respond tag op rc d r0 r1).held = s.held := rfl
@[simp] theorem respond_stall (s : State) (tag : BitVec 8) (op : BitVec 4) (rc : ResultCode) (d : Bool) (r0 r1 : Word) :
    (s.respond tag op rc d r0 r1).stall = s.stall := rfl
@[simp] theorem respond_script (s : State) (tag : BitVec 8) (op : BitVec 4) (rc : ResultCode) (d : Bool) (r0 r1 : Word) :
    (s.respond tag op rc d r0 r1).script = s.script := rfl
@[simp] theorem respond_received (s : State) (tag : BitVec 8) (op : BitVec 4) (rc : ResultCode) (d : Bool) (r0 r1 : Word) :
    (s.respond tag op rc d r0 r1).received = s.received := rfl

/-! ### `raise` -/

@[simp] theorem raise_level (s : State) (tag : BitVec 8) (op : BitVec 4) (e : ErrorCause) :
    (s.raise tag op e).arch.level = s.arch.level := rfl
@[simp] theorem raise_mapValid (s : State) (tag : BitVec 8) (op : BitVec 4) (e : ErrorCause) :
    (s.raise tag op e).arch.mapValid = s.arch.mapValid := rfl
@[simp] theorem raise_status (s : State) (tag : BitVec 8) (op : BitVec 4) (e : ErrorCause) :
    (s.raise tag op e).arch.status = s.arch.status ||| (causeBit e).mask := rfl
@[simp] theorem raise_phase (s : State) (tag : BitVec 8) (op : BitVec 4) (e : ErrorCause) :
    (s.raise tag op e).phase = s.phase := rfl
@[simp] theorem raise_accepted (s : State) (tag : BitVec 8) (op : BitVec 4) (e : ErrorCause) :
    (s.raise tag op e).accepted = s.accepted := rfl
@[simp] theorem raise_responses (s : State) (tag : BitVec 8) (op : BitVec 4) (e : ErrorCause) :
    (s.raise tag op e).responses = s.responses ++ [⟨tag, op, .error e, false, 0, 0⟩] := rfl
@[simp] theorem raise_held (s : State) (tag : BitVec 8) (op : BitVec 4) (e : ErrorCause) :
    (s.raise tag op e).held = s.held := rfl
@[simp] theorem raise_stall (s : State) (tag : BitVec 8) (op : BitVec 4) (e : ErrorCause) :
    (s.raise tag op e).stall = s.stall := rfl
@[simp] theorem raise_script (s : State) (tag : BitVec 8) (op : BitVec 4) (e : ErrorCause) :
    (s.raise tag op e).script = s.script := rfl
@[simp] theorem raise_received (s : State) (tag : BitVec 8) (op : BitVec 4) (e : ErrorCause) :
    (s.raise tag op e).received = s.received := rfl

/-! ### `answered` -/

@[simp] theorem answered_arch (s : State) (a : Arch) (r : Response) : (s.answered a r).arch = a := rfl
@[simp] theorem answered_phase (s : State) (a : Arch) (r : Response) : (s.answered a r).phase = s.phase := rfl
@[simp] theorem answered_accepted (s : State) (a : Arch) (r : Response) :
    (s.answered a r).accepted = s.accepted := rfl
@[simp] theorem answered_responses (s : State) (a : Arch) (r : Response) :
    (s.answered a r).responses = s.responses ++ [r] := rfl
@[simp] theorem answered_held (s : State) (a : Arch) (r : Response) : (s.answered a r).held = s.held := rfl
@[simp] theorem answered_stall (s : State) (a : Arch) (r : Response) : (s.answered a r).stall = s.stall := rfl
@[simp] theorem answered_script (s : State) (a : Arch) (r : Response) : (s.answered a r).script = s.script := rfl
@[simp] theorem answered_received (s : State) (a : Arch) (r : Response) :
    (s.answered a r).received = s.received := rfl

/-! ### `clockEdge` -/

@[simp] theorem clockEdge_arch (s : State) : (clockEdge s).arch = s.arch := rfl
@[simp] theorem clockEdge_phase (s : State) : (clockEdge s).phase = phaseNext s := rfl
@[simp] theorem clockEdge_accepted (s : State) :
    (clockEdge s).accepted = s.accepted.map Accepted.tick ++ (cmdBeat s).toList.map (accept s.cycle.delay) := rfl
@[simp] theorem clockEdge_responses (s : State) :
    (clockEdge s).responses = s.responses.drop (rspBeat s).toList.length := rfl
@[simp] theorem clockEdge_held (s : State) : (clockEdge s).held = heldNext s := rfl
@[simp] theorem clockEdge_stall (s : State) : (clockEdge s).stall = stallNext s := rfl
@[simp] theorem clockEdge_script (s : State) : (clockEdge s).script = s.script.tail := rfl
@[simp] theorem clockEdge_received (s : State) : (clockEdge s).received = s.received ++ (rspBeat s).toList := rfl

/-! ### `resetEdge` -/

@[simp] theorem resetEdge_arch (s : State) : (resetEdge s).arch = Arch.reset := rfl
@[simp] theorem resetEdge_phase (s : State) : (resetEdge s).phase = Phase.reset := rfl
@[simp] theorem resetEdge_accepted (s : State) : (resetEdge s).accepted = [] := rfl
@[simp] theorem resetEdge_responses (s : State) : (resetEdge s).responses = [] := rfl
@[simp] theorem resetEdge_held (s : State) : (resetEdge s).held = [] := rfl
@[simp] theorem resetEdge_stall (s : State) : (resetEdge s).stall = 0 := rfl
@[simp] theorem resetEdge_script (s : State) : (resetEdge s).script = s.script.tail := rfl
@[simp] theorem resetEdge_received (s : State) : (resetEdge s).received = s.received := rfl

/-! ### `facing` and `taking` -/

@[simp] theorem facing_arch (s : State) (c : Cycle) : (s.facing c).arch = s.arch := rfl
@[simp] theorem facing_phase (s : State) (c : Cycle) : (s.facing c).phase = s.phase := rfl
@[simp] theorem facing_accepted (s : State) (c : Cycle) : (s.facing c).accepted = s.accepted := rfl
@[simp] theorem facing_responses (s : State) (c : Cycle) : (s.facing c).responses = s.responses := rfl
@[simp] theorem facing_held (s : State) (c : Cycle) : (s.facing c).held = s.held := rfl
@[simp] theorem facing_stall (s : State) (c : Cycle) : (s.facing c).stall = s.stall := rfl
@[simp] theorem facing_received (s : State) (c : Cycle) : (s.facing c).received = s.received := rfl
@[simp] theorem facing_cycle (s : State) (c : Cycle) : (s.facing c).cycle = c := rfl
@[simp] theorem taking_arch (s : State) (k : Nat) : (s.taking k).arch = s.arch := rfl
@[simp] theorem taking_phase (s : State) (k : Nat) : (s.taking k).phase = s.phase := rfl
@[simp] theorem taking_accepted (s : State) (k : Nat) : (s.taking k).accepted = s.accepted := rfl
@[simp] theorem taking_responses (s : State) (k : Nat) : (s.taking k).responses = s.responses := rfl
@[simp] theorem taking_held (s : State) (k : Nat) : (s.taking k).held = s.held := rfl
@[simp] theorem taking_stall (s : State) (k : Nat) : (s.taking k).stall = s.stall := rfl
@[simp] theorem taking_received (s : State) (k : Nat) : (s.taking k).received = s.received := rfl
@[simp] theorem taking_cycle (s : State) (k : Nat) : (s.taking k).cycle = { s.cycle with take := k } := rfl

end Sys2Proof.Machine
end

