-- ==== Sys2Proof/Laws/Ops.lean ====
section
/-! SUPPORT. What each shared operation can do, said once: every one of them leaves the machine `answered`, or changes S
alone. -/

namespace Sys2Proof.Machine

/-- `respond` answers and leaves S as it was. -/
theorem respond_eq_answered (s : State) (tag : BitVec 8) (op : BitVec 4) (rc : ResultCode) (d : Bool) (r0 r1 : Word) :
    s.respond tag op rc d r0 r1 = s.answered s.arch ⟨tag, op, rc, d, r0, r1⟩ := rfl

/-- `raise` sets one STATUS bit and answers with zero data. -/
theorem raise_eq_answered (s : State) (tag : BitVec 8) (op : BitVec 4) (e : ErrorCause) :
    s.raise tag op e =
      s.answered ⟨s.arch.level, s.arch.mapValid, s.arch.status ||| (causeBit e).mask⟩ ⟨tag, op, .error e, false, 0, 0⟩ :=
  rfl

/-- `raiseIllegal` sets E_ILL and answers with the raw OP. -/
theorem raiseIllegal_eq_answered (s : State) (w : CommandWord) :
    s.raiseIllegal w =
      s.answered ⟨s.arch.level, s.arch.mapValid, s.arch.status ||| 1⟩
        ⟨tagField w, opField w, .error .illegal, false, 0, 0⟩ :=
  rfl

/-- `respondCell` answers OK with the rank and its threshold. -/
theorem respondCell_eq_answered (s : State) (tag : BitVec 8) (op : BitVec 4) (d : Bool) (r : Nat) :
    s.respondCell tag op d r = s.answered s.arch ⟨tag, op, .ok, d, BitVec.ofNat 32 r, thrBits r s.power⟩ := rfl

/-- `setStatusIf` is one update of STATUS. -/
theorem setStatusIf_eq (s : State) (c : Bool) (b : StatusBit) :
    s.setStatusIf c b =
      { s with arch := ⟨s.arch.level, s.arch.mapValid, s.arch.status ||| (if c then b.mask else 0)⟩ } := by
  cases c <;> simp [State.setStatusIf, State.setStatus]

/-- The STATUS bits are in six different places. -/
theorem mask_values :
    StatusBit.eIll.mask = 1 ∧ StatusBit.eNomap.mask = 2 ∧ StatusBit.eParam.mask = 4 ∧ StatusBit.eRange.mask = 8 ∧
      StatusBit.nanSeen.mask = 16 ∧ StatusBit.oorSeen.mask = 32 := by decide

/-- The latency and the depth are at least 1 (00_scope.md R8). -/
theorem lat_pos : 0 < Config.LAT ∧ 0 < Config.DEPTH := ⟨Nat.succ_pos _, Nat.succ_pos _⟩

/-- A decoded word is legal, and is read by its opcode. -/
theorem decode_eq_ok {w : CommandWord} {i : Instr} (h : decode w = .ok i) :
    legal w = true ∧ i = decodeLegal w := by
  unfold decode at h
  split at h
  · cases h
  · next hn => cases h; exact ⟨by simp [legal, hn], rfl⟩

/-- What `issue` answers: the head of the FIFO, due, taken off it. -/
theorem issue_eq_some {s t : State} {w : CommandWord} (h : issue s = some (w, t)) :
    ∃ rest, s.accepted = ⟨w, 0, 0⟩ :: rest ∧ t = { s with accepted := rest } := by
  unfold issue at h
  cases hs : s.accepted with
  | nil => simp [hs] at h
  | cons a rest =>
    obtain ⟨word, wait, delay⟩ := a
    simp only [hs] at h
    split at h
    · next hd =>
      obtain ⟨rfl, rfl⟩ : wait = 0 ∧ delay = 0 := by simpa [Accepted.due] using hd
      obtain ⟨rfl, rfl⟩ := by simpa using h
      exact ⟨rest, rfl, rfl⟩
    · cases h

/-- When `issue` has nothing: the FIFO is empty, or the oldest command is still waiting. -/
theorem issue_eq_none {s : State} (h : issue s = none) :
    s.accepted = [] ∨ ∃ a rest, s.accepted = a :: rest ∧ 0 < a.wait + a.delay := by
  unfold issue at h
  cases hs : s.accepted with
  | nil => exact .inl rfl
  | cons a rest =>
    simp only [hs] at h
    split at h
    · cases h
    · next hd =>
      refine .inr ⟨a, rest, rfl, ?_⟩
      simp only [Accepted.due, Bool.and_eq_true, decide_eq_true_eq] at hd
      omega

/-- All that a step can do. -/
theorem step_cases {s t : State} (h : step s = .next t) :
    (s.cycle.rst = true ∧ t = resetEdge s) ∨
    (s.cycle.rst = false ∧ issue (clockEdge s) = none ∧ t = clockEdge s) ∨
    (s.cycle.rst = false ∧ ∃ w u, issue (clockEdge s) = some (w, u) ∧ execWord w u = .next t) := by
  unfold step at h
  split at h
  · next hr => exact .inl ⟨hr, by simpa using h.symm⟩
  · next hr =>
    have hr : s.cycle.rst = false := by simpa using hr
    split at h
    · next w u hi => exact .inr (.inr ⟨hr, w, u, hi, h⟩)
    · next hi => exact .inr (.inl ⟨hr, hi, by simpa using h.symm⟩)

/-- A response transfers only when it is offered and taken, and then it is the oldest. -/
theorem rspBeat_eq_some {s : State} {r : Response} (h : rspBeat s = some r) :
    s.cycle.rst = false ∧ rspValid s = true ∧ s.cycle.rspReady = true ∧ ∃ rest, s.responses = r :: rest := by
  unfold rspBeat at h
  split at h
  · next hc =>
    simp only [Bool.and_eq_true, Bool.not_eq_true'] at hc
    cases hs : s.responses with
    | nil => simp [hs] at h
    | cons a rest => exact ⟨hc.1.1, hc.1.2, hc.2, rest, by simpa [hs] using h⟩
  · cases h

/-- A response beat moves the oldest response from the FIFO to the host, or nothing moves. -/
theorem clockEdge_moves_response (s : State) :
    (clockEdge s).received ++ (clockEdge s).responses = s.received ++ s.responses := by
  cases hb : rspBeat s with
  | none => simp [hb]
  | some r =>
    obtain ⟨-, -, -, rest, hr⟩ := rspBeat_eq_some hb
    simp [hb, hr]

/-- A command transfers only when it is offered and the block is ready. -/
theorem cmdBeat_eq_some {s : State} {w : CommandWord} (h : cmdBeat s = some w) :
    s.cycle.rst = false ∧ s.cycle.cmdValid = true ∧ cmdReady s = true ∧ w = takenWord s := by
  unfold cmdBeat at h
  split at h
  · next hc =>
    simp only [Bool.and_eq_true, Bool.not_eq_true'] at hc
    exact ⟨hc.1.1, hc.1.2, hc.2, by simpa using h.symm⟩
  · cases h

/-- The word taken is the one the host now offers, or one it offered since the last transfer. -/
theorem takenWord_mem (s : State) : takenWord s = s.cycle.cmdData ∨ takenWord s ∈ s.held := by
  unfold takenWord offeredWords
  rw [List.getD_eq_getElem?_getD]
  cases hk : (s.cycle.cmdData :: s.held)[s.cycle.take]? with
  | none => exact .inl rfl
  | some v => simpa using List.mem_of_getElem? hk

/-- The words `heldNext` lists: none after a transfer, else those before and the one now offered. -/
theorem mem_heldNext {s : State} {w : CommandWord} :
    w ∈ heldNext s ↔ cmdBeat s = none ∧ (w ∈ s.held ∨ (s.cycle.cmdValid = true ∧ w = s.cycle.cmdData)) := by
  unfold heldNext
  cases hb : cmdBeat s with
  | some v => simp
  | none =>
    cases hv : s.cycle.cmdValid with
    | false => simp
    | true =>
      by_cases hm : s.cycle.cmdData ∈ s.held
      · simp [hm]
        rintro rfl; exact hm
      · simp [hm]

/-- A hold of `cmd_ready` runs down by one, unless none was left or the host leaves a response untaken. -/
theorem stallNext_lt {s : State} (h0 : s.stall ≠ 0) (hr : rspStalled s = false) : stallNext s + 1 = s.stall := by
  simp [stallNext, h0, hr]; omega

end Sys2Proof.Machine
end

