-- ==== Sys2Proof/Laws/PerInstr.lean ====
section
/-! SUPPORT. A fact about every command as syntax, one lemma per constructor: the header its encoding has (R61, R63,
R64). -/

namespace Sys2Proof

/-- The header fields of a packed word are the ones packed. -/
theorem packCommand_header (op : BitVec 4) (tag : BitVec 8) (a b c : Word) :
    opField (packCommand op tag a b c) = op ∧ tagField (packCommand op tag a b c) = tag ∧
      rsv0Field (packCommand op tag a b c) = 0 ∧ rsv1Field (packCommand op tag a b c) = 0 := by
  refine ⟨?_, ?_, ?_, ?_⟩ <;>
    · apply BitVec.eq_of_getLsbD_eq
      intro k hk
      simp only [opField, tagField, rsv0Field, rsv1Field, packCommand, BitVec.getLsbD_extractLsb', BitVec.getLsbD_append,
        hk, decide_true, Bool.true_and]
      split_ifs <;> first | omega | (congr 1; omega)

/-- A word packed with a reserved field of 0 and an opcode below 8 is legal. -/
theorem packCommand_legal {op : BitVec 4} (h : op.getLsbD 3 = false) (tag : BitVec 8) (a b c : Word) :
    legal (packCommand op tag a b c) = true := by
  obtain ⟨h1, -, h3, h4⟩ := packCommand_header op tag a b c
  simpa [legal, reservedEncoding, h1, h3, h4] using h

namespace Laws.EncodeHeader

/-- The encoding is legal and carries the command's opcode and tag. -/
def Statement (i : Instr) : Prop :=
  legal (encode i) = true ∧ opField (encode i) = i.opcode ∧ tagField (encode i) = i.tag

/-- A packed word with an opcode below 8 has the header it was packed with. -/
theorem of_packed {op : BitVec 4} (h : op.getLsbD 3 = false) (tag : BitVec 8) (a b c : Word) :
    legal (packCommand op tag a b c) = true ∧ opField (packCommand op tag a b c) = op ∧
      tagField (packCommand op tag a b c) = tag :=
  ⟨packCommand_legal h tag a b c, (packCommand_header op tag a b c).1, (packCommand_header op tag a b c).2.1⟩

theorem nop (tag : BitVec 8) : Statement (.nop tag) := of_packed (by decide) tag _ _ _
theorem setlvl (tag : BitVec 8) (level : Word) : Statement (.setlvl tag level) := of_packed (by decide) tag _ _ _
theorem getcfg (tag : BitVec 8) : Statement (.getcfg tag) := of_packed (by decide) tag _ _ _
theorem clrstat (tag : BitVec 8) (mask : BitVec 6) : Statement (.clrstat tag mask) := of_packed (by decide) tag _ _ _
theorem tcell (tag : BitVec 8) (i j : Word) : Statement (.tcell tag i j) := of_packed (by decide) tag _ _ _
theorem tsample (tag : BitVec 8) (x y : Word) : Statement (.tsample tag x y) := of_packed (by decide) tag _ _ _
theorem tcmp (tag : BitVec 8) (lum thr : Word) : Statement (.tcmp tag lum thr) := of_packed (by decide) tag _ _ _
theorem dither (tag : BitVec 8) (x y lum : Word) : Statement (.dither tag x y lum) := of_packed (by decide) tag _ _ _

end Laws.EncodeHeader

end Sys2Proof
end

