-- ==== Sys2Proof/Tests/Slice0.lean ====
section
/-! SUPPORT. The model's own tests. Expected words come from the spec: 30_encoding.md R73 and 95_test_vectors.md, except
where a comment says otherwise. The `witness_` theorems show that the hypotheses of a statement can be met. -/

namespace Sys2Proof.Machine.Tests

/-- A running block with this S and nothing in flight. -/
def blockAt (level : BitVec 4) (mapValid : Bool) (status : BitVec 6) : State :=
  { State.reset with phase := .running, arch := ⟨level, mapValid, status⟩ }

/-- The response words to a command word, and S after it, from a given S. -/
def answer (level : BitVec 4) (mapValid : Bool) (status : BitVec 6) (w : CommandWord) : List ResponseWord × Arch :=
  ((replyOf w ⟨level, mapValid, status⟩).1.map encodeResponse, (replyOf w ⟨level, mapValid, status⟩).2)

/-- The responses pending after one step, as words. -/
def pendingAfter (s : State) : List ResponseWord :=
  match step s with
  | .next t => t.responses.map encodeResponse
  | .fault _ => []
  | .refused _ => []

/-- A cycle in which the host offers a command. -/
def offer (w : CommandWord) : Cycle := { Cycle.idle with cmdValid := true, cmdData := w }

/-! ### Decoding: one word of each command, written from R61 and R63 (R73, 95 section 3) -/

theorem test_decode_nop : decode 0x0000000000000000000000000000FF00#128 = .ok (.nop 0xFF) := by decide
theorem test_decode_setlvl : decode 0x00000000000000000000000200000001#128 = .ok (.setlvl 0 2) := by decide
theorem test_decode_getcfg : decode 0x00000000000000000000000000000902#128 = .ok (.getcfg 9) := by decide
theorem test_decode_clrstat : decode 0x0000000000000000FFFFFFC100000003#128 = .ok (.clrstat 0 1) := by decide
theorem test_decode_tcell : decode 0x00000000000000020000000100000004#128 = .ok (.tcell 0 1 2) := by decide
theorem test_decode_tsample : decode 0x00000000000000030000000500000005#128 = .ok (.tsample 0 5 3) := by decide
theorem test_decode_tcmp :
    decode 0x000000003E8000003E851EB800000006#128 = .ok (.tcmp 0 0x3E851EB8 0x3E800000) := by decide
theorem test_decode_dither :
    decode 0x3E800000000000010000000100000507#128 = .ok (.dither 5 1 1 0x3E800000) := by decide
theorem test_decode_reserved_opcode :
    decode 0x00000003000000020000000100001F0F#128 = .error (.reservedOpcode 0xF) := by decide
theorem test_decode_rsv0 : decode 0x00000000000000000000000000000010#128 = .error (.reservedRsv0 1) := by decide
theorem test_decode_rsv1 : decode 0x00000000000000000000000000010000#128 = .error (.reservedRsv1 1) := by decide
theorem test_encode_dither : encode (.dither 5 1 1 0x3E800000) = 0x3E800000000000010000000100000507#128 := by decide
theorem test_decodeTableWord : decodeTableWord 32 0x00000507 = some (.dither 5 0 0 0) := by decide

/-! ### Well-formedness of assembly: an ill-formed term for each check (R71) -/

theorem test_tag_too_large : (AsmLine.command (some 256) .nop).wellFormed = false := by decide
theorem test_u32_too_large : (AsmLine.command none (.tcell (2 ^ 32) 0)).wellFormed = false := by decide
theorem test_mask6_too_large : (AsmLine.command none (.clrstat 64)).wellFormed = false := by decide
theorem test_bits_too_wide : (AsmLine.command none (.tcmp (.bits (2 ^ 32)) (.bits 0))).wellFormed = false := by decide
theorem test_raw_too_wide : (AsmLine.raw 0 0 0 (2 ^ 32)).wellFormed = false := by decide

/-! ### Assembly (R71 to R73) -/

theorem test_assemble_tcmp : assembleText "TCMP 0.26, 0.25" = some 0x000000003E8000003E851EB800000006#128 := by decide
theorem test_assemble_dither :
    assembleText "DITHER.t5 1, 1, 0.25 ; a comment" = some 0x3E800000000000010000000100000507#128 := by decide
theorem test_assemble_clrall : assembleText "CLRALL" = some 0x00000000000000000000003F00000003#128 := by decide
theorem test_assemble_raw : assembleText "RAW 0x10, 0, 0, 0" = some 0x00000000000000000000000000000010#128 := by decide
theorem test_assemble_minus_zero :
    assembleText "TCMP f:0x00000000, -0.0" = some 0x00000000800000000000000000000006#128 := by decide
theorem test_assemble_refuses_large_mask : assembleText "CLRSTAT 64" = none := by decide

/-! ### The generator (95 sections 1 and 2) -/

/-- W2: row 2 of the level-1 matrix. -/
theorem test_rank_level1_row2 : (List.range 4).map (rank 2 2) = [2, 14, 1, 13] := by decide
/-- 2.2: row 0 of the level-2 matrix, which is not the published transpose. -/
theorem test_rank_level2_row0 : (List.range 8).map (rank 3 0) = [0, 48, 12, 60, 3, 51, 15, 63] := by decide
/-- 2.1 and R106. -/
theorem test_thresholds : thrBits 3 1 = 0x3F400000 ∧ thrBits 27 3 = 0x3ED80000 ∧ thrBits 11184810 12 = 0x3F2AAAAA ∧
    thrBits 16777215 12 = 0x3F7FFFFF := by decide

/-! ### Commands, at most two vectors each (95 sections 3 and 4) -/

theorem test_nop : answer 0 false 0 0x0000000000000000000000000000FF00#128 = ([0xFF#96], ⟨0, false, 0⟩) := by decide
/-- R66: unused operands nonzero. -/
theorem test_nop_ignores_operands :
    answer 0 false 0 0xFFFFFFFFFFFFFFFFFFFFFFFF00000000#128 = ([0#96], ⟨0, false, 0⟩) := by decide
theorem test_getcfg : answer 2 true 0 0x00000000000000000000000000000902#128 =
    ([0x00000000B7010B1200000209#96], ⟨2, true, 0⟩) := by decide
theorem test_clrstat : answer 0 false 0b000101 0x00000000000000000000000100000003#128 =
    ([0x000000050000000000000300#96], ⟨0, false, 0b000100⟩) := by decide
theorem test_clrstat_high_bits : answer 0 false 0b001000 0x0000000000000000FFFFFFC000000003#128 =
    ([0x000000080000000000000300#96], ⟨0, false, 0b001000⟩) := by decide
theorem test_setlvl : answer 0 false 0 0x00000000000000000000000B00000001#128 =
    ([0x000000000000000000000100#96], ⟨11, true, 0⟩) := by decide
theorem test_setlvl_param : answer 1 true 0 0x00000000000000000000000C00000001#128 =
    ([0x000000000000000000003100#96], ⟨1, false, 0b000100⟩) := by decide
theorem test_tcell : answer 1 true 0 0x00000000000000030000000300000004#128 =
    ([0x3EA000000000000500000400#96], ⟨1, true, 0⟩) := by decide
theorem test_tcell_range : answer 11 true 0 0x00000000000010000000000000000004#128 =
    ([0x000000000000000000004400#96], ⟨11, true, 0b001000⟩) := by decide
theorem test_tsample : answer 1 true 0 0x00000000000000060000000700000005#128 =
    ([0x3F5000000000000D00000500#96], ⟨1, true, 0⟩) := by decide
theorem test_tsample_orientation : answer 11 true 0 0x00000000000000010000000000000005#128 =
    ([0x3F0000000080000000000500#96], ⟨11, true, 0⟩) := by decide
theorem test_tcmp_subnormal : answer 0 false 0 0x00000000000000000000000100000006#128 =
    ([0x000000000000000000010600#96], ⟨0, false, 0⟩) := by decide
theorem test_tcmp_both_flags : answer 0 false 0 0x000000007FC000004000000000000006#128 =
    ([0x000000000000000000000600#96], ⟨0, false, 0b110000⟩) := by decide
theorem test_dither_equal_is_off : answer 11 true 0 0x3F7FFFFF0000000000000FFF00000007#128 =
    ([0x3F7FFFFF00FFFFFF00000700#96], ⟨11, true, 0⟩) := by decide
theorem test_dither_nomap_sees_no_nan : answer 0 false 0 0x7FC00000000000000000000000000007#128 =
    ([0x000000000000000000002700#96], ⟨0, false, 0b000010⟩) := by decide
theorem test_illegal_echoes_raw_op : answer 0 false 0 0x00000003000000020000000100001F0F#128 =
    ([0x000000000000000000001F1F#96], ⟨0, false, 0b000001⟩) := by decide
theorem test_illegal_before_nomap : answer 0 false 0 0x3F000000000000000000000000000017#128 =
    ([0x000000000000000000001700#96], ⟨0, false, 0b000001⟩) := by decide

/-! ### Steps -/

/-- R10, R165: the first step after reset runs a command placed by `withFetchWord`. -/
theorem test_fetch_word_runs : pendingAfter (State.reset.withFetchWord 32 0x00000902) =
    [0x00000000B7010B0000000209#96] := by decide
/-- R240: out of the reset cycle nothing transfers, though the host offers. -/
theorem test_reset_cycle_accepts_nothing :
    (cmdReady { State.reset with script := [offer 0] }, cmdBeat { State.reset with script := [offer 0] }) =
      (false, none) := by decide
/-- R43: a running block takes an offered command. -/
theorem test_offered_command_transfers : cmdBeat { blockAt 0 false 0 with script := [offer 0x902] } = some 0x902#128 := by
  decide

/-! ### Witnesses: the hypotheses of the statements can be met -/

theorem witness_ReservedEncodingsRaiseIllegal :
    8 ≤ ((8#128).extractLsb' 0 4).toNat ∧ (0x10#128).extractLsb' 4 4 ≠ 0 ∧ (0x10000#128).extractLsb' 16 16 ≠ 0 := by
  decide

theorem witness_DecodedOperandsAreWordFields : ∃ i, decode 0x507#128 = .ok i := ⟨_, rfl⟩

theorem witness_UnusedOperandFieldsIgnored :
    (0x000000000000000000000040_00000003#128).extractLsb' 0 (usedBits 3) =
      (0xFFFFFFFFFFFFFFFFFFFFFFC0_00000003#128).extractLsb' 0 (usedBits 3) ∧
    usedBits ((0x000000000000000000000040_00000003#128).extractLsb' 0 4) = usedBits 3 := by decide

theorem witness_ResponseWordCarriesItsFields :
    decodeResponse 0x4400#96 = some ⟨0, 4, .error .range, false, 0, 0⟩ ∧ 5 ≤ ((0x5400#96).extractLsb' 12 4).toNat := by
  decide

theorem witness_SerialLinksAreLittleEndian : (15 < 16 ∧ 3 < 4 ∧ 11 < 12 ∧ 2 < 3) ∧
    (List.replicate 15 (0#8)).length ≠ 16 ∧ (List.replicate 16 (0#8)).length ≠ 12 ∧
    (List.replicate 3 (0#32)).length ≠ 4 ∧ (List.replicate 4 (0#32)).length ≠ 3 := by decide

theorem witness_RankHasClosedForm : 11 < 12 := by decide

theorem witness_RankIsTiledRecursively : 1 < 2 ∧ 2047 < 2 ^ 11 ∧ 4095 < 2 ^ 12 := by decide

theorem witness_RanksAreAPermutation : 1 ≤ 12 ∧ 12 ≤ 12 ∧ 16777215 < 2 ^ (2 * 12) ∧ 3 < 2 ^ (2 * 1) := by decide

theorem witness_MatrixIsNeverSymmetric : 1 ≤ 1 ∧ 1 ≤ 12 := by decide

theorem witness_ImplementationsFormTheSameCells : (1 ≤ 12 ∧ 12 ≤ 12 ∧ 4095 < 2 ^ 12) ∧ (1 ≤ 1 ∧ 1 ≤ 12 ∧ 1 < 2 ^ 1) := by
  decide

theorem witness_ThresholdBitsAreExact : (1 ≤ 12 ∧ 12 ≤ 12 ∧ 16777215 < 2 ^ (2 * 12) ∧ 16777215 ≠ 0) ∧
    (1 ≤ 1 ∧ 1 ≤ 12 ∧ 0 < 2 ^ (2 * 1)) := by decide

theorem witness_SamplingIsToroidal : (0xFFFFEFFF#32).toNat + 2 ^ mapPower (blockAt 11 true 0) < 2 ^ 32 := by decide

theorem witness_SetlvlSetsLevelOrRaisesParam : (11#32).toNat ≤ 11 ∧ 11 < (12#32).toNat := by decide

theorem witness_TcellReadsItsCell :
    ((blockAt 11 true 0).arch.level.toNat ≤ 11 ∧ (blockAt 11 true 0).arch.mapValid = true ∧
      (4095#32).toNat < 2 ^ mapPower (blockAt 11 true 0) ∧ 2 ^ mapPower (blockAt 11 true 0) ≤ (4096#32).toNat) ∧
    ((blockAt 11 false 0).arch.level.toNat ≤ 11 ∧ (blockAt 11 false 0).arch.mapValid = false) := by decide

theorem witness_TsampleReadsTheWrappedCell :
    ((blockAt 11 true 0).arch.level.toNat ≤ 11 ∧ (blockAt 11 true 0).arch.mapValid = true) ∧
    ((blockAt 0 false 0).arch.level.toNat ≤ 11 ∧ (blockAt 0 false 0).arch.mapValid = false) := by decide

theorem witness_TsampleIsTcellSwapped : (blockAt 2 true 0).arch.mapValid = true ∧
    (7#32).toNat < 2 ^ mapPower (blockAt 2 true 0) ∧ (0#32).toNat < 2 ^ mapPower (blockAt 2 true 0) := by decide

theorem witness_BinaryValuesFollowTheFormula :
    IsNaN 0x7F800001#32 ∧ (¬IsNaN 0xFF800000#32 ∧ ¬IsFinite 0xFF800000#32) ∧ IsFinite 0x7F7FFFFF#32 := by
  unfold IsNaN IsFinite; decide

theorem witness_FixedPointComparatorDecidesAlike :
    (1 ≤ 12 ∧ 12 ≤ 12 ∧ 16777215 < 2 ^ (2 * 12)) ∧ IsFinite 0x3F7FFFFF#32 ∧ (0x80000000#32).getLsbD 31 = true ∧
    ¬IsNaN 0x3F800000#32 ∧ (((1 : ℚ) : WithTop ℚ) : WithBot (WithTop ℚ)) ≤ valX 0x3F800000#32 := by
  refine ⟨by decide, by unfold IsFinite; decide, by decide, by unfold IsNaN; decide, ?_⟩
  simp [valX, valQ]

theorem witness_DitherDecidesThePixel :
    ((blockAt 11 true 0b110000).arch.level.toNat ≤ 11 ∧ (blockAt 11 true 0b110000).arch.mapValid = true) ∧
    ((blockAt 11 false 0).arch.level.toNat ≤ 11 ∧ (blockAt 11 false 0).arch.mapValid = false) := by decide

theorem witness_UniformImagesAreUniform :
    (⟨11, true, 0⟩ : Arch).mapValid = true ∧ (⟨11, true, 0⟩ : Arch).level.toNat ≤ 11 ∧
    decode 0x3F800000000000000000000000000007#128 = .ok (.dither 0 0 0 0x3F800000) ∧
    decode 0x00000000000000000000000000000007#128 = .ok (.dither 0 0 0 0) := by decide

theorem witness_DitherOrderDoesNotMatter :
    decode 0x3F800000000000000000000000000007#128 = .ok (.dither 0 0 0 0x3F800000) ∧
    decode 0x7FC00000000000000000000000000107#128 = .ok (.dither 1 0 0 0x7FC00000) ∧
    [0x3F800000000000000000000000000007#128, 0x7FC00000000000000000000000000107#128].Perm
      [0x7FC00000000000000000000000000107#128, 0x3F800000000000000000000000000007#128] :=
  ⟨by decide, by decide, List.Perm.swap _ _ _⟩

theorem witness_CellResponsesDependOnLevelOnly :
    (⟨3, true, 0⟩ : Arch).level = (⟨3, true, 0b111111⟩ : Arch).level ∧ (⟨3, true, 0⟩ : Arch).mapValid = true ∧
    (⟨3, true, 0b111111⟩ : Arch).mapValid = true := by decide

theorem witness_StatusBitsAreSticky :
    (∀ tag mask, decode 0#128 ≠ .ok (.clrstat tag mask)) ∧ (∃ t, execWord 0#128 (blockAt 0 false 0b100000) = .next t) ∧
    (blockAt 0 false 0b100000).arch.status.getLsbD 5 = true := by
  refine ⟨fun tag mask h => ?_, ⟨_, rfl⟩, by decide⟩
  simp [show decode 0#128 = .ok (.nop 0) by decide] at h

theorem witness_ClrstatLosesNoEvent :
    ∀ w ∈ [0xC00000001#128] ++ [0x17#128], ∀ t m, decode w ≠ .ok (.clrstat t m) := by
  intro w hw t m h
  simp only [List.cons_append, List.nil_append, List.mem_cons, List.not_mem_nil, or_false] at hw
  rcases hw with rfl | rfl
  · simp [show decode 0xC00000001#128 = .ok (.setlvl 0 12) by decide] at h
  · simp [show decode 0x17#128 = .error (.reservedRsv0 1) by decide] at h

theorem witness_FirstErrorInPriorityIsReported :
    ((replyOf 0x0C00000001#128 ⟨0, false, 0⟩).1.map (·.rc)) = [.error .param] := by decide

/-- A block with one command accepted and due. -/
def busyBlock : State := { blockAt 0 false 0 with accepted := [⟨0x902, 0, 0⟩], script := [Cycle.idle] }

theorem witness_StepKeepsInv : Inv busyBlock ∧ ∃ t, step busyBlock = .next t := by
  refine ⟨⟨by decide, ?_, ?_, ?_, ?_, ?_⟩, ⟨_, rfl⟩⟩
  · exact lat_pos.2
  · intro a ha
    obtain rfl := by simpa [busyBlock] using ha
    exact lat_pos.1
  · intro n h; cases h
  · intro h; exact absurd rfl h
  · intro r hr; simp [busyBlock, blockAt, State.reset] at hr

theorem witness_ResetEdgeFromAnyState :
    ({ busyBlock with script := [{ Cycle.idle with rst := true }] } : State).cycle.rst = true := by decide

theorem witness_BeatsFollowTheHandshake :
    HostKeepsOffer { blockAt 0 false 0 with held := [0x902], script := [offer 0x902] } ∧
    cmdBeat { blockAt 0 false 0 with held := [0x902], script := [offer 0x902] } = some 0x902#128 ∧
    rspBeat { blockAt 0 false 0 with
      responses := [⟨0, 0, .ok, false, 0, 0⟩], script := [{ Cycle.idle with rspReady := true }] } =
        some ⟨0, 0, .ok, false, 0, 0⟩ := by
  refine ⟨fun w hw _ => ?_, by decide, by decide⟩
  obtain rfl : w = 0x902#128 := by simpa using hw
  decide

/-- A block that is to be offered two words in turn, which holds `cmd_ready` low for the first cycle. -/
def twoOffers : State := { blockAt 0 false 0 with stall := 1, script := [offer 0x902, { offer 0x502 with take := 1 }] }

/-- R245: the first word does not transfer; when the second is offered in its place, the first is taken. -/
theorem witness_BrokenOfferTakesEitherWord :
    cmdBeat twoOffers = none ∧ twoOffers.cycle.rst = false ∧
    ∃ t, step twoOffers = .next t ∧ t.cycle.rst = false ∧ t.cycle.cmdValid = true ∧ cmdReady t = true ∧
      cmdBeat t = some 0x902#128 ∧ 0x902#128 ∈ t.held ∧ cmdBeat (t.taking 0) = some 0x502#128 :=
  ⟨by decide, by decide, _, rfl, by decide, by decide, by decide, by decide, by decide, by decide⟩

/-- R245: a word withdrawn may still be taken at a later offer. -/
theorem test_withdrawn_word_may_be_taken :
    cmdBeat { blockAt 0 false 0 with
      held := heldNext { blockAt 0 false 0 with held := [0x902], stall := 1 }
      script := [{ offer 0x502 with take := 1 }] } = some 0x902#128 := by decide

/-- Every cycle offers GETCFG and takes a response. -/
def getcfgForever : Nat → Cycle := fun _ => { offer 0x902 with rspReady := true }

theorem getcfgForever_fair (s : State) : FairHost getcfgForever s :=
  ⟨fun _ => rfl, fun n _ => ⟨n, le_rfl, rfl⟩⟩

theorem witness_TransferredWordWasOffered :
    (blockAt 0 false 0).held = [] ∧ cmdBeat (during getcfgForever (blockAt 0 false 0) 0) = some 0x902#128 ∧
    OffersKept getcfgForever (blockAt 0 false 0) :=
  ⟨rfl, by decide, fun _ _ _ _ => ⟨rfl, rfl⟩⟩

theorem witness_AcceptedCommandsAreOffered :
    FairHost getcfgForever (blockAt 0 false 0) ∧
    cmdBeat (during getcfgForever (blockAt 0 false 0) 0) = some 0x902#128 ∧
    ((during getcfgForever { blockAt 0 false 0 with responses := [⟨0, 0, .ok, false, 0, 0⟩] } 0).view []).1[0]? =
      some ⟨0, 0, .ok, false, 0, 0⟩ :=
  ⟨getcfgForever_fair _, by decide, by decide⟩

theorem witness_OfferedCommandsAreAccepted :
    FairHost getcfgForever (blockAt 0 false 0) ∧ (getcfgForever 0).cmdValid = true ∧
    OffersKept getcfgForever (blockAt 0 false 0) ∧ (blockAt 0 false 0).held = [] :=
  ⟨getcfgForever_fair _, rfl, fun _ _ _ _ => ⟨rfl, rfl⟩, rfl⟩

theorem witness_ResponsesWaitTheirLatency :
    (∀ k, (getcfgForever k).rst = false) ∧
    cmdBeat (during getcfgForever (blockAt 0 false 0) 0) = some 0x902#128 ∧ 0 ≤ 0 ∧ 0 < 0 + Config.LAT :=
  ⟨fun _ => rfl, by decide, le_rfl, by simpa using lat_pos.1⟩

theorem witness_OfferedResponseIsStable :
    rspValid { busyBlock with responses := [⟨0, 0, .ok, false, 0, 0⟩] } = true ∧
    ({ busyBlock with responses := [⟨0, 0, .ok, false, 0, 0⟩] } : State).cycle.rst = false ∧
    ({ busyBlock with responses := [⟨0, 0, .ok, false, 0, 0⟩] } : State).cycle.rspReady = false ∧
    ∃ t, step { busyBlock with responses := [⟨0, 0, .ok, false, 0, 0⟩] } = .next t :=
  ⟨by decide, by decide, by decide, ⟨_, rfl⟩⟩

theorem witness_StepRunsTheDecodedCommand :
    busyBlock.cycle.rst = false ∧ (clockEdge busyBlock).accepted = ⟨0x902, 0, 0⟩ :: [] ∧
    decode 0x902#128 = .ok (.getcfg 9) ∧ decodeTableWord 32 0x902 = some (.getcfg 9) := by decide

theorem witness_EdgeKeepsTheSequentialReading : busyBlock.cycle.rst = false ∧ ∃ t, step busyBlock = .next t :=
  ⟨by decide, ⟨_, rfl⟩⟩

theorem witness_RunIsSequentialExecution :
    ({ blockAt 0 false 0 with script := [Cycle.idle] } : State).accepted = [] ∧
    ({ blockAt 0 false 0 with script := [Cycle.idle] } : State).responses = [] ∧
    ({ blockAt 0 false 0 with script := [Cycle.idle] } : State).received = [] ∧
    NoReset 1 { blockAt 0 false 0 with script := [Cycle.idle] } ∧
    ∃ t, runEdges 1 { blockAt 0 false 0 with script := [Cycle.idle] } = .next t ∧ t.accepted = [] ∧ t.responses = [] := by
  refine ⟨rfl, rfl, rfl, ?_, ⟨_, rfl, rfl, rfl⟩⟩
  intro c hc
  obtain rfl := by simpa using hc
  rfl

/-- A cycle in which the host takes a response and offers nothing. -/
def drainCycle : Cycle := { Cycle.idle with rspReady := true }

theorem witness_AcceptedCommandsAreAnswered :
    ({ busyBlock with script := [drainCycle, drainCycle] } : State).phase = .running ∧
    2 ≤ [drainCycle, drainCycle].length ∧
    (∀ c ∈ [drainCycle, drainCycle].take 2, c.Drains ∧ c.cmdValid = false) ∧
    (busyBlock.accepted.map fun a => a.wait + a.delay).sum + 2 * busyBlock.accepted.length + busyBlock.responses.length ≤ 2 := by
  refine ⟨rfl, by decide, ?_, by decide⟩
  intro c hc
  obtain rfl := by simpa using hc
  exact ⟨⟨rfl, rfl⟩, rfl⟩

theorem witness_ReadyWithinResetLatency :
    Inv { State.reset with script := [Cycle.idle] } ∧ ({ State.reset with script := [Cycle.idle] } : State).phase = .reset ∧
    NoReset (Config.rstLat + 1) { State.reset with script := [Cycle.idle] } := by
  refine ⟨⟨by decide, Nat.zero_le _, ?_, ?_, ?_, ?_⟩, rfl, ?_⟩
  · intro a ha; simp [State.reset] at ha
  · intro n h; simp [State.reset] at h
  · intro _; exact ⟨rfl, rfl, rfl⟩
  · intro r hr; simp [State.reset] at hr
  · intro c hc
    obtain rfl := by simpa using hc
    rfl

theorem witness_AssembledLinesDecode : assemble (.command (some 9) .getcfg) = some 0x902#128 := by decide

theorem witness_DecimalLiteralsRoundToNearest :
    IsFinite (F32Literal.field (.decimal false 26 2)) ∧ IsFinite 0x3E851EB9#32 ∧ (0x3E851EB9#32).getLsbD 31 = false := by
  unfold IsFinite; decide

end Sys2Proof.Machine.Tests
end

section
/-! PROOFS. The statements of 00_scope.md: a command word is answered once, a step runs the decoded command, an edge keeps
the sequential reading, a response waits its latency. -/

namespace Sys2Proof.Machine

/-! ### The map in force depends on S alone -/

theorem power_congr {s t : State} (h : t.arch = s.arch) : t.power = s.power := by simp [State.power, h]

theorem outside_congr {s t : State} (h : t.arch = s.arch) (coord : Word) : t.outside coord = s.outside coord := by
  rw [State.outside, State.outside, State.size, State.size, power_congr h]

theorem sampleRank_congr {s t : State} (h : t.arch = s.arch) (x y : Word) : t.sampleRank x y = s.sampleRank x y := by
  simp [State.sampleRank, power_congr h]

/-! ### Every command is answered once -/

/-- `f` gives one proper response with this TAG and OP, and the response and the new S depend on the S of `s` alone: they
are the same for every state that agrees with `s` on S (R10, R11). -/
def AnswersOnce (f : State → Host.Outcome State Fault Refusal) (s : State) (tag : BitVec 8) (op : BitVec 4) : Prop :=
  ∃ (a : Arch) (r : Response), r.tag = tag ∧ r.op = op ∧ Response.Proper r ∧
    ∀ t : State, t.arch = s.arch → f t = .next (t.answered a r)

/-- A response without an error is proper if its decision is off, or it is of TCMP or DITHER (R67). -/
theorem proper_ok (tag : BitVec 8) (op : BitVec 4) {d : Bool} (r0 r1 : Word) (hd : d = true → op = 6 ∨ op = 7) :
    Response.Proper ⟨tag, op, .ok, d, r0, r1⟩ := ⟨nofun, hd⟩

/-- The response of `raise` is proper (R203). -/
theorem proper_error (tag : BitVec 8) (op : BitVec 4) (e : ErrorCause) :
    Response.Proper ⟨tag, op, .error e, false, 0, 0⟩ := ⟨fun _ _ => ⟨rfl, rfl, rfl⟩, nofun⟩

section
variable {f : State → Host.Outcome State Fault Refusal} {s : State} {tag : BitVec 8} {op : BitVec 4}

theorem answersOnce_of_ok (a : Arch) (d : Bool) (r0 r1 : Word) (hd : d = true → op = 6 ∨ op = 7)
    (h : ∀ t : State, t.arch = s.arch → f t = .next (t.answered a ⟨tag, op, .ok, d, r0, r1⟩)) :
    AnswersOnce f s tag op := ⟨a, _, rfl, rfl, proper_ok tag op r0 r1 hd, h⟩

theorem answersOnce_of_error (a : Arch) (e : ErrorCause)
    (h : ∀ t : State, t.arch = s.arch → f t = .next (t.answered a ⟨tag, op, .error e, false, 0, 0⟩)) :
    AnswersOnce f s tag op := ⟨a, _, rfl, rfl, proper_error tag op e, h⟩

/-- A command that raises an error, with nothing written before, answers once. -/
theorem answersOnce_of_raise (e : ErrorCause) (h : ∀ t : State, t.arch = s.arch → f t = .next (t.raise tag op e)) :
    AnswersOnce f s tag op :=
  answersOnce_of_error (s.setStatus (causeBit e)).arch e fun t ht => by
    rw [h t ht, raise_eq_answered, ht]; rfl

end

theorem execNop_answersOnce (tag : BitVec 8) (s : State) : AnswersOnce (execNop tag) s tag Opcode.nop :=
  answersOnce_of_ok s.arch false 0 0 nofun fun t ht => by rw [execNop, respond_eq_answered, ht]

theorem execGetcfg_answersOnce (tag : BitVec 8) (s : State) : AnswersOnce (execGetcfg tag) s tag Opcode.getcfg :=
  answersOnce_of_ok s.arch false s.arch.cfgWord s.arch.statusWord nofun fun t ht => by
    rw [execGetcfg, respond_eq_answered, ht]

theorem execClrstat_answersOnce (tag : BitVec 8) (mask : BitVec 6) (s : State) :
    AnswersOnce (execClrstat tag mask) s tag Opcode.clrstat :=
  answersOnce_of_ok (s.clearStatus mask).arch false 0 s.arch.statusWord nofun fun t ht => by
    simp only [execClrstat, State.clearStatus, ← ht]; rfl

theorem execSetlvl_answersOnce (tag : BitVec 8) (level : Word) (s : State) :
    AnswersOnce (execSetlvl tag level) s tag Opcode.setlvl := by
  cases hl : levelTooLarge level with
  | true =>
    exact answersOnce_of_error ((s.setMapValid false).setStatus .eParam).arch .param fun t ht => by
      simp only [execSetlvl, hl, State.setMapValid, State.setStatus, ← ht]; rfl
  | false =>
    exact answersOnce_of_ok ((s.setLevel (levelOperand level)).setMapValid true).arch false 0 0 nofun fun t ht => by
      simp only [execSetlvl, hl, State.setMapValid, State.setLevel, ← ht]; rfl

theorem execTcell_answersOnce (tag : BitVec 8) (i j : Word) (s : State) :
    AnswersOnce (execTcell tag i j) s tag Opcode.tcell := by
  cases hm : s.arch.mapValid with
  | false => exact answersOnce_of_raise .nomap fun t ht => by simp [execTcell, ht, hm]
  | true =>
    cases ho : s.outside i || s.outside j with
    | true => exact answersOnce_of_raise .range fun t ht => by simp [execTcell, ht, hm, outside_congr ht, ho]
    | false =>
      exact answersOnce_of_ok s.arch false (BitVec.ofNat 32 (rank s.power i.toNat j.toNat))
        (thrBits (rank s.power i.toNat j.toNat) s.power) nofun fun t ht => by
          simp [execTcell, ht, hm, outside_congr ht, ho, respondCell_eq_answered, power_congr ht]

theorem execTsample_answersOnce (tag : BitVec 8) (x y : Word) (s : State) :
    AnswersOnce (execTsample tag x y) s tag Opcode.tsample := by
  cases hm : s.arch.mapValid with
  | false => exact answersOnce_of_raise .nomap fun t ht => by simp [execTsample, ht, hm]
  | true =>
    exact answersOnce_of_ok s.arch false (BitVec.ofNat 32 (s.sampleRank x y)) (thrBits (s.sampleRank x y) s.power)
      nofun fun t ht => by
        simp [execTsample, ht, hm, respondCell_eq_answered, power_congr ht, sampleRank_congr ht]

/-- S after the two flags of a comparison (R133). -/
theorem setStatusIf_twice_arch_congr {s t : State} (h : t.arch = s.arch) (c d : Bool) (b b' : StatusBit) :
    ((t.setStatusIf c b).setStatusIf d b').arch = ((s.setStatusIf c b).setStatusIf d b').arch := by
  simp only [setStatusIf_eq, h]

/-- Setting flags and then answering is one answer, with the S the flags left. -/
theorem setStatusIf_twice_answered (s : State) (c d : Bool) (b b' : StatusBit) (a : Arch) (r : Response) :
    ((s.setStatusIf c b).setStatusIf d b').answered a r = s.answered a r := by
  simp only [setStatusIf_eq, State.answered]

theorem setStatusIf_power (s : State) (c : Bool) (b : StatusBit) : (s.setStatusIf c b).power = s.power := by
  simp [State.power]

theorem execTcmp_answersOnce (tag : BitVec 8) (lum thr : Word) (s : State) :
    AnswersOnce (execTcmp tag lum thr) s tag Opcode.tcmp :=
  answersOnce_of_ok ((s.setStatusIf (nanOfPair lum thr) .nanSeen).setStatusIf (oorOfLuminance lum) .oorSeen).arch
    (decideOn lum thr) 0 0 (fun _ => .inl rfl) fun t ht => by
      rw [execTcmp, respond_eq_answered, setStatusIf_twice_answered, setStatusIf_twice_arch_congr ht]

theorem execDither_answersOnce (tag : BitVec 8) (x y lum : Word) (s : State) :
    AnswersOnce (execDither tag x y lum) s tag Opcode.dither := by
  cases hm : s.arch.mapValid with
  | false => exact answersOnce_of_raise .nomap fun t ht => by simp [execDither, ht, hm]
  | true =>
    exact answersOnce_of_ok
      ((s.setStatusIf (nanOfLuminance lum) .nanSeen).setStatusIf (oorOfLuminance lum) .oorSeen).arch
      (decideOn lum (thrBits (s.sampleRank x y) s.power)) (BitVec.ofNat 32 (s.sampleRank x y))
      (thrBits (s.sampleRank x y) s.power) (fun _ => .inr rfl) fun t ht => by
        simp only [execDither, ht, hm, Bool.not_true, Bool.false_eq_true, if_false, respondCell_eq_answered,
          setStatusIf_twice_answered, setStatusIf_twice_arch_congr ht, setStatusIf_power, power_congr ht,
          sampleRank_congr ht]

/-- Every legal command answers once, with its own TAG and OP. -/
theorem exec_answersOnce (i : Instr) (s : State) : AnswersOnce (exec i) s i.tag i.opcode :=
  match i with
  | .nop tag => execNop_answersOnce tag s
  | .setlvl tag level => execSetlvl_answersOnce tag level s
  | .getcfg tag => execGetcfg_answersOnce tag s
  | .clrstat tag mask => execClrstat_answersOnce tag mask s
  | .tcell tag i j => execTcell_answersOnce tag i j s
  | .tsample tag x y => execTsample_answersOnce tag x y s
  | .tcmp tag lum thr => execTcmp_answersOnce tag lum thr s
  | .dither tag x y lum => execDither_answersOnce tag x y lum s

/-! ### A decoded word has the TAG and OP of its command -/

theorem decodeLegal_tag (w : CommandWord) : (decodeLegal w).tag = tagField w := by
  unfold decodeLegal; split <;> rfl

/-- An opcode below 8 is its low three bits. -/
theorem low3_eq_of_not_getLsbD_3 : ∀ {op : BitVec 4}, op.getLsbD 3 = false → (op.extractLsb' 0 3).toNat = op.toNat := by
  decide

theorem opField_of_legal {w : CommandWord} (h : legal w = true) : (opField w).getLsbD 3 = false := by
  rw [← Bool.not_eq_true]
  intro hop
  rw [legal, reservedEncoding, if_pos hop] at h
  cases h

theorem decodeLegal_opcode {w : CommandWord} (h : legal w = true) : (decodeLegal w).opcode = opField w := by
  apply BitVec.eq_of_toNat_eq
  rw [← low3_eq_of_not_getLsbD_3 (opField_of_legal h)]
  unfold decodeLegal
  split
  case h_8 h0 h1 h2 h3 h4 h5 h6 =>
    have hlow : ((opField w).extractLsb' 0 3).toNat = 7 := by
      have hlt := ((opField w).extractLsb' 0 3).isLt
      change _ ≠ _ at h0 h1 h2 h3 h4 h5 h6
      omega
    rw [hlow]; rfl
  all_goals next hn => rw [hn]; rfl

/-- Every word, legal or not, answers once, with the TAG and the raw OP of its header (R65, R69). -/
theorem execWord_answersOnce (w : CommandWord) (s : State) : AnswersOnce (execWord w) s (tagField w) (opField w) := by
  cases hd : decode w with
  | error e =>
    exact answersOnce_of_raise .illegal fun t _ => by simp [execWord, hd, State.raiseIllegal]
  | ok i =>
    obtain ⟨hl, rfl⟩ := decode_eq_ok hd
    have hf : execWord w = exec (decodeLegal w) := by funext t; simp [execWord, hd]
    rw [hf, ← decodeLegal_tag, ← decodeLegal_opcode hl]
    exact exec_answersOnce _ s

/-- Settles O37: `execWord_answersOnce`, at the state itself. -/
theorem everyWordIsAnsweredOnce : Obligations.EveryWordIsAnsweredOnce := by
  intro w s
  obtain ⟨a, r, htag, hop, hproper, hexec⟩ := execWord_answersOnce w s
  exact ⟨a, r, hexec s rfl, htag, hop, hproper⟩

/-! ### What an edge without reset does -/

/-- A command at the head of the FIFO with no edge left to wait is issued. -/
theorem issue_of_due {s : State} {w : CommandWord} {rest : List Accepted} (h : s.accepted = ⟨w, 0, 0⟩ :: rest) :
    issue s = some (w, { s with accepted := rest }) := by
  simp [issue, h, Accepted.due]

theorem step_of_issue_some {s u : State} {w : CommandWord} (hr : s.cycle.rst = false)
    (hi : issue (clockEdge s) = some (w, u)) : step s = execWord w u := by
  simp [step, hr, hi]

theorem step_of_issue_none {s : State} (hr : s.cycle.rst = false) (hi : issue (clockEdge s) = none) :
    step s = .next (clockEdge s) := by
  simp [step, hr, hi]

/-- A word's execution is its reply: the response appended and the S left are those of `replyOf`, in every state with the
same S. -/
theorem execWord_eq_reply (w : CommandWord) (s : State) :
    ∃ a r, replyOf w s.arch = ([r], a) ∧ execWord w s = .next (s.answered a r) := by
  obtain ⟨a, r, -, -, -, hexec⟩ := execWord_answersOnce w s
  refine ⟨a, r, ?_, hexec s rfl⟩
  rw [replyOf, hexec { State.reset with arch := s.arch } rfl]
  rfl

/-- All that an edge without reset can do: the beats alone, or the beats and the reply to the oldest command. -/
theorem step_cases_of_not_rst {s : State} (hr : s.cycle.rst = false) :
    step s = .next (clockEdge s) ∨
    ∃ w u a r, issue (clockEdge s) = some (w, u) ∧ replyOf w u.arch = ([r], a) ∧ step s = .next (u.answered a r) := by
  cases hi : issue (clockEdge s) with
  | none => exact .inl (step_of_issue_none hr hi)
  | some p =>
    obtain ⟨w, u⟩ := p
    obtain ⟨a, r, hreply, hexec⟩ := execWord_eq_reply w u
    exact .inr ⟨w, u, a, r, rfl, hreply, (step_of_issue_some hr hi).trans hexec⟩

/-! ### A step runs the decoded command -/

/-- An edge whose oldest command is due runs the command its word decodes to. -/
theorem step_eq_exec {s : State} {w : CommandWord} {i : Instr} {rest : List Accepted} (hr : s.cycle.rst = false)
    (ha : (clockEdge s).accepted = ⟨w, 0, 0⟩ :: rest) (hd : decode w = .ok i) :
    step s = exec i { clockEdge s with accepted := rest } := by
  rw [step_of_issue_some hr (issue_of_due ha), execWord, hd]

theorem withFetchWord_cycle_rst (s : State) (nbits w : Nat) : (s.withFetchWord nbits w).cycle.rst = false := rfl

/-- After the beats, the command that `withFetchWord` placed is still the oldest one and due. -/
theorem clockEdge_withFetchWord_accepted (s : State) (nbits w : Nat) :
    (clockEdge (s.withFetchWord nbits w)).accepted =
      ⟨BitVec.ofNat 128 (w % 2 ^ nbits), 0, 0⟩ :: (clockEdge (s.withFetchWord nbits w)).accepted.tail := rfl

theorem decode_of_decodeTableWord {nbits w : Nat} {i : Instr} (h : decodeTableWord nbits w = some i) :
    decode (BitVec.ofNat 128 (w % 2 ^ nbits)) = .ok i := by
  unfold decodeTableWord at h
  cases hd : decode (BitVec.ofNat 128 (w % 2 ^ nbits)) with
  | error e => rw [hd] at h; cases h
  | ok j => rw [hd] at h; cases h; rfl

/-- Settles O45: both parts are `step_eq_exec`, the second at the command `withFetchWord` placed. -/
theorem stepRunsTheDecodedCommand : Obligations.StepRunsTheDecodedCommand :=
  ⟨fun _ _ _ _ hr ha hd => step_eq_exec hr ha hd,
   fun s nbits w _ h =>
    step_eq_exec (withFetchWord_cycle_rst s nbits w) (clockEdge_withFetchWord_accepted s nbits w)
      (decode_of_decodeTableWord h)⟩

/-! ### The sequential reading -/

/-- The beats move the command that transfers from `more` to the end of the FIFO, and nothing else of the reading. -/
theorem clockEdge_view (s : State) (more : List CommandWord) :
    (clockEdge s).view more = s.view ((cmdBeat s).toList ++ more) := by
  have hwords : (clockEdge s).accepted.map (·.word) = s.accepted.map (·.word) ++ (cmdBeat s).toList := by
    simp [Function.comp_def, Accepted.tick, accept]
  simp only [State.view, clockEdge_moves_response, hwords, clockEdge_arch, List.append_assoc]

/-- Executing the oldest command moves its reply from the responses to come to the FIFO. -/
theorem issue_view {s u : State} {w : CommandWord} {a : Arch} {r : Response} (hi : issue s = some (w, u))
    (hreply : replyOf w u.arch = ([r], a)) (more : List CommandWord) : (u.answered a r).view more = s.view more := by
  obtain ⟨rest, haccepted, rfl⟩ := issue_eq_some hi
  have hreply : replyOf w s.arch = ([r], a) := hreply
  simp [State.view, haccepted, sequential, hreply]

/-- Settles O47: `clockEdge_view` for the beats, then `issue_view` if a command runs. -/
theorem edgeKeepsTheSequentialReading : Obligations.EdgeKeepsTheSequentialReading := by
  intro s t more hr hstep
  rw [← clockEdge_view]
  obtain hnone | ⟨w, u, a, r, hi, hreply, hsome⟩ := step_cases_of_not_rst hr
  · cases hnone.symm.trans hstep; rfl
  · cases hsome.symm.trans hstep; exact issue_view hi hreply more

/-! ### Responses wait their latency -/

/-- A command with at least `e` edges left to wait is in the FIFO, and `c` responses are formed before its own. -/
def WaitsBehind (s : State) (c e : Nat) : Prop :=
  ∃ older x younger, s.accepted = older ++ x :: younger ∧ formed s + older.length = c ∧ e ≤ x.wait

theorem formed_le_of_waitsBehind {s : State} {c e : Nat} (h : WaitsBehind s c e) : formed s ≤ c := by
  obtain ⟨older, -, -, -, rfl, -⟩ := h
  omega

theorem waitsBehind_facing {s : State} {c e : Nat} (h : WaitsBehind s c e) (cycle : Cycle) :
    WaitsBehind (s.facing cycle) c e := h

theorem formed_clockEdge (s : State) : formed (clockEdge s) = formed s := by
  simpa only [formed, List.length_append] using congrArg List.length (clockEdge_moves_response s)

/-- The beats take one edge off the wait. -/
theorem waitsBehind_clockEdge {s : State} {c e : Nat} (h : WaitsBehind s c e) : WaitsBehind (clockEdge s) c (e - 1) := by
  obtain ⟨older, x, younger, haccepted, hcount, hwait⟩ := h
  refine ⟨older.map Accepted.tick, x.tick,
    younger.map Accepted.tick ++ (cmdBeat s).toList.map (accept s.cycle.delay), ?_, ?_, Nat.sub_le_sub_right hwait 1⟩
  · simp [haccepted]
  · simpa [formed_clockEdge] using hcount

/-- A command that transfers waits behind all the earlier ones, with the rest of `LAT` to go. -/
theorem waitsBehind_of_cmdBeat {s : State} {w : CommandWord} (h : cmdBeat s = some w) :
    WaitsBehind (clockEdge s) (formed s + s.accepted.length) Config.latPred :=
  ⟨s.accepted.map Accepted.tick, accept s.cycle.delay w, [], by simp [h], by simp [formed_clockEdge], le_rfl⟩

/-- Issuing the oldest command leaves a command that must still wait where it stands in the order. -/
theorem waitsBehind_issue {s u : State} {w : CommandWord} {c e : Nat} (he : 0 < e) (hi : issue s = some (w, u))
    (a : Arch) (r : Response) (h : WaitsBehind s c e) : WaitsBehind (u.answered a r) c e := by
  obtain ⟨rest, hdue, rfl⟩ := issue_eq_some hi
  obtain ⟨older, x, younger, haccepted, hcount, hwait⟩ := h
  rw [hdue] at haccepted
  cases older with
  | nil =>
    obtain ⟨rfl, -⟩ := List.cons.inj haccepted
    exact absurd (he.trans_le hwait) (lt_irrefl 0)
  | cons y older =>
    obtain ⟨-, rfl⟩ := List.cons.inj haccepted
    refine ⟨older, x, younger, rfl, ?_, hwait⟩
    simp [formed] at hcount ⊢
    omega

/-- An edge without reset forms no response past a command that must still wait after its beats. -/
theorem waitsBehind_step {s t : State} {c e : Nat} (hr : s.cycle.rst = false) (hstep : step s = .next t) (he : 0 < e)
    (h : WaitsBehind (clockEdge s) c e) : WaitsBehind t c e := by
  obtain hnone | ⟨w, u, a, r, hi, -, hsome⟩ := step_cases_of_not_rst hr
  · cases hnone.symm.trans hstep; exact h
  · cases hsome.symm.trans hstep; exact waitsBehind_issue he hi a r h

section
variable {env : Nat → Cycle}

theorem during_cycle_rst (hr : ∀ k, (env k).rst = false) (s : State) (n : Nat) :
    (during env s n).cycle.rst = false := by
  induction n with
  | zero => exact hr 0
  | succ n ih =>
    obtain hnone | ⟨w, u, a, r, -, -, hsome⟩ := step_cases_of_not_rst ih
    · simp [during, hnone, hr]
    · simp [during, hsome, hr]

/-- In a run without reset, each cycle's state is a step of the one before. -/
theorem during_succ (hr : ∀ k, (env k).rst = false) (s : State) (n : Nat) :
    ∃ t, step (during env s n) = .next t ∧ during env s (n + 1) = t.facing (env (n + 1)) := by
  obtain hnone | ⟨w, u, a, r, -, -, hsome⟩ := step_cases_of_not_rst (during_cycle_rst hr s n)
  · exact ⟨_, hnone, by simp [during, hnone]⟩
  · exact ⟨_, hsome, by simp [during, hsome]⟩

/-- One cycle of a run without reset, as `waitsBehind_step` has it. -/
theorem waitsBehind_during_succ (hr : ∀ k, (env k).rst = false) {s : State} {n c e : Nat} (he : 0 < e)
    (h : WaitsBehind (clockEdge (during env s n)) c e) : WaitsBehind (during env s (n + 1)) c e := by
  obtain ⟨t, hstep, hnext⟩ := during_succ hr s n
  rw [hnext]
  exact waitsBehind_facing (waitsBehind_step (during_cycle_rst hr s n) hstep he h) _

/-- `d + 1` cycles after its transfer a command has all but `d` edges of the rest of `LAT` still to wait. -/
theorem waitsBehind_after_transfer (hr : ∀ k, (env k).rst = false) {s : State} {n : Nat} {w : CommandWord}
    (hw : cmdBeat (during env s n) = some w) {d : Nat} (hd : d < Config.latPred) :
    WaitsBehind (during env s (n + 1 + d)) (formed (during env s n) + (during env s n).accepted.length)
      (Config.latPred - d) := by
  induction d with
  | zero => exact waitsBehind_during_succ hr hd (waitsBehind_of_cmdBeat hw)
  | succ d ih => exact waitsBehind_during_succ hr (Nat.sub_pos_of_lt hd) (waitsBehind_clockEdge (ih (by omega)))

end

/-- Settles O58: in the cycle of the transfer no response is formed yet, and in each later cycle within `LAT` the command
is still waiting behind the earlier ones. -/
theorem responsesWaitTheirLatency : Obligations.ResponsesWaitTheirLatency := by
  intro env s n m w hr hw hnm hm
  obtain rfl | hlt := hnm.eq_or_lt
  · omega
  · obtain ⟨d, rfl⟩ := Nat.exists_eq_add_of_le (Nat.succ_le_of_lt hlt)
    have hd : d < Config.latPred := by simp only [Config.LAT] at hm; omega
    exact formed_le_of_waitsBehind (waitsBehind_after_transfer hr hw hd)

end Sys2Proof.Machine
end

section
/-! PROOFS. The statements of 10_state.md: what a word can do to S, that LEVEL and MAP_VALID follow the SETLVL commands, and
that every edge keeps the invariant. -/

namespace Sys2Proof.Machine

/-! ### What a word can do to S -/

/-- The level operand of a decoded word, if it is a SETLVL (R110). -/
def setlvlOperand : Except DecodeError Instr → Option Word
  | .ok (.setlvl _ level) => some level
  | _ => none

/-- Every decoded word but a SETLVL and a CLRSTAT: a command that writes neither the map nor a 0 into STATUS, or an illegal
word. -/
def onlySetsStatus : Except DecodeError Instr → Bool
  | .ok (.setlvl _ _) => false
  | .ok (.clrstat _ _) => false
  | _ => true

theorem setlvlOperand_of_onlySetsStatus {d : Except DecodeError Instr} (h : onlySetsStatus d = true) :
    setlvlOperand d = none := by
  cases d with
  | error e => rfl
  | ok i =>
    cases i with
    | setlvl tag level => cases h
    | _ => rfl

/-- How S can change from `a` when a word that decodes to `d` is executed (R23 to R26): SETLVL sets the map or loses it,
CLRSTAT clears STATUS bits, and whatever else a word is, it only sets STATUS bits. -/
inductive ArchEffect (a : Arch) : Except DecodeError Instr → Arch → Prop
  | mapSet (tag : BitVec 8) (level : Word) (hl : level.toNat ≤ 11) :
      ArchEffect a (.ok (.setlvl tag level)) ⟨levelOperand level, true, a.status⟩
  | mapLost (tag : BitVec 8) (level : Word) (hl : 11 < level.toNat) :
      ArchEffect a (.ok (.setlvl tag level)) ⟨a.level, false, a.status ||| StatusBit.eParam.mask⟩
  | statusCleared (tag : BitVec 8) (mask : BitVec 6) :
      ArchEffect a (.ok (.clrstat tag mask)) ⟨a.level, a.mapValid, a.status &&& ~~~mask⟩
  | statusSet (d : Except DecodeError Instr) (bits : BitVec 6) (hd : onlySetsStatus d = true) :
      ArchEffect a d ⟨a.level, a.mapValid, a.status ||| bits⟩

section
variable {d : Except DecodeError Instr}

theorem archEffect_refl (hd : onlySetsStatus d = true) (a : Arch) : ArchEffect a d a := by
  simpa using ArchEffect.statusSet (a := a) d 0 hd

theorem archEffect_raise (hd : onlySetsStatus d = true) (s : State) (tag : BitVec 8) (op : BitVec 4) (e : ErrorCause) :
    ArchEffect s.arch d (s.raise tag op e).arch := .statusSet d (causeBit e).mask hd

/-- The two flags of a comparison (R133) are STATUS bits set. -/
theorem archEffect_setStatusIf_twice (hd : onlySetsStatus d = true) (s : State) (c c' : Bool) (b b' : StatusBit) :
    ArchEffect s.arch d ((s.setStatusIf c b).setStatusIf c' b').arch := by
  simp only [setStatusIf_eq, BitVec.or_assoc]
  exact .statusSet d _ hd

end

theorem levelTooLarge_eq_true_iff (level : Word) : levelTooLarge level = true ↔ 11 < level.toNat := decide_eq_true_iff

theorem execSetlvl_archEffect {tag : BitVec 8} {level : Word} {s t : State} (h : execSetlvl tag level s = .next t) :
    ArchEffect s.arch (.ok (.setlvl tag level)) t.arch := by
  unfold execSetlvl at h
  split at h
  · next hl => cases h; exact .mapLost tag level ((levelTooLarge_eq_true_iff level).1 hl)
  · next hl => cases h; exact .mapSet tag level (Nat.not_lt.1 (mt (levelTooLarge_eq_true_iff level).2 hl))

theorem execTcell_archEffect {tag : BitVec 8} {i j : Word} {s t : State} (h : execTcell tag i j s = .next t) :
    ArchEffect s.arch (.ok (.tcell tag i j)) t.arch := by
  unfold execTcell at h
  split at h
  · cases h; exact archEffect_raise rfl s _ _ _
  · split at h
    · cases h; exact archEffect_raise rfl s _ _ _
    · cases h; exact archEffect_refl rfl s.arch

theorem execTsample_archEffect {tag : BitVec 8} {x y : Word} {s t : State} (h : execTsample tag x y s = .next t) :
    ArchEffect s.arch (.ok (.tsample tag x y)) t.arch := by
  unfold execTsample at h
  split at h
  · cases h; exact archEffect_raise rfl s _ _ _
  · cases h; exact archEffect_refl rfl s.arch

theorem execDither_archEffect {tag : BitVec 8} {x y lum : Word} {s t : State} (h : execDither tag x y lum s = .next t) :
    ArchEffect s.arch (.ok (.dither tag x y lum)) t.arch := by
  unfold execDither at h
  split at h
  · cases h; exact archEffect_raise rfl s _ _ _
  · cases h; exact archEffect_setStatusIf_twice rfl s _ _ _ _

/-- Every legal command changes S by one of the four effects. -/
theorem exec_archEffect {i : Instr} {s t : State} (h : exec i s = .next t) : ArchEffect s.arch (.ok i) t.arch := by
  cases i with
  | nop tag => cases h; exact archEffect_refl rfl s.arch
  | setlvl tag level => exact execSetlvl_archEffect h
  | getcfg tag => cases h; exact archEffect_refl rfl s.arch
  | clrstat tag mask => cases h; exact .statusCleared tag mask
  | tcell tag i j => exact execTcell_archEffect h
  | tsample tag x y => exact execTsample_archEffect h
  | tcmp tag lum thr => cases h; exact archEffect_setStatusIf_twice rfl s _ _ _ _
  | dither tag x y lum => exact execDither_archEffect h

/-- Every word, legal or not, changes S by one of the four effects. -/
theorem execWord_archEffect {w : CommandWord} {s t : State} (h : execWord w s = .next t) :
    ArchEffect s.arch (decode w) t.arch := by
  unfold execWord at h
  split at h
  · next i hd => rw [hd]; exact exec_archEffect h
  · next e hd => rw [hd]; cases h; exact archEffect_raise rfl s _ _ _

/-- The S that `replyOf` leaves is one of the four effects. -/
theorem replyOf_archEffect (w : CommandWord) (a : Arch) : ArchEffect a (decode w) (replyOf w a).2 := by
  obtain ⟨b, r, hreply, hexec⟩ := execWord_eq_reply w { State.reset with arch := a }
  rw [show replyOf w a = ([r], b) from hreply]
  exact execWord_archEffect hexec

/-! ### STATUS bits are sticky -/

/-- Only CLRSTAT can write a 0 into STATUS (R26). -/
theorem ArchEffect.status_getLsbD {a b : Arch} {d : Except DecodeError Instr} (h : ArchEffect a d b)
    (hd : ∀ tag mask, d ≠ .ok (.clrstat tag mask)) {k : Nat} (hk : a.status.getLsbD k = true) :
    b.status.getLsbD k = true := by
  cases h with
  | mapSet => exact hk
  | mapLost => simp [hk]
  | statusCleared tag mask => exact absurd rfl (hd tag mask)
  | statusSet => simp [hk]

/-- Settles O34: of the four effects only that of CLRSTAT clears a STATUS bit. -/
theorem statusBitsAreSticky : Obligations.StatusBitsAreSticky :=
  fun _ _ _ hd h _ hk => (execWord_archEffect h).status_getLsbD hd hk

/-! ### LEVEL and MAP_VALID follow SETLVL -/

/-- The level operand of a decoded word, if it is a SETLVL with a level up to 11 (R110). -/
def goodLevelOperand (d : Except DecodeError Instr) : Option Word :=
  (setlvlOperand d).filter fun level => decide (level.toNat ≤ 11)

/-- A level up to 11 fits the four bits of LEVEL. -/
theorem levelOperand_toNat {level : Word} (h : level.toNat ≤ 11) : (levelOperand level).toNat = level.toNat := by
  rw [levelOperand, BitVec.extractLsb'_toNat, Nat.shiftRight_zero]
  exact Nat.mod_eq_of_lt (by omega)

/-- MAP_VALID says whether the level was good, after a SETLVL, and stays after any other word (R23, R110). -/
theorem ArchEffect.mapValid_eq {a b : Arch} {d : Except DecodeError Instr} (h : ArchEffect a d b) :
    b.mapValid = (setlvlOperand d).elim a.mapValid fun level => decide (level.toNat ≤ 11) := by
  cases h with
  | mapSet tag level hl => simp [setlvlOperand, hl]
  | mapLost tag level hl => simp [setlvlOperand, hl]
  | statusCleared => rfl
  | statusSet _ _ hd => simp [setlvlOperand_of_onlySetsStatus hd]

/-- LEVEL is the operand of a SETLVL with a good level, and stays after any other word (R23, R110). -/
theorem ArchEffect.level_toNat {a b : Arch} {d : Except DecodeError Instr} (h : ArchEffect a d b) :
    b.level.toNat = (goodLevelOperand d).elim a.level.toNat BitVec.toNat := by
  cases h with
  | mapSet tag level hl => simp [goodLevelOperand, setlvlOperand, Option.filter_some, hl, levelOperand_toNat hl]
  | mapLost tag level hl => simp [goodLevelOperand, setlvlOperand, Option.filter_some, Nat.not_le.2 hl]
  | statusCleared => rfl
  | statusSet _ _ hd => simp [goodLevelOperand, setlvlOperand_of_onlySetsStatus hd]

/-- LEVEL stays within 0 to 11, whatever word is executed (R24). -/
theorem ArchEffect.level_le {a b : Arch} {d : Except DecodeError Instr} (h : ArchEffect a d b)
    (ha : a.level.toNat ≤ 11) : b.level.toNat ≤ 11 := by
  cases h with
  | mapSet tag level hl => exact (levelOperand_toNat hl).trans_le hl
  | mapLost | statusCleared | statusSet => exact ha

theorem lastSetlvl_cons (w : CommandWord) (ws : List CommandWord) :
    lastSetlvl (w :: ws) = (lastSetlvl ws).or (setlvlOperand (decode w)) := by
  rw [lastSetlvl]
  cases lastSetlvl ws with
  | some l => rfl
  | none =>
    cases decode w with
    | error e => rfl
    | ok i => cases i <;> rfl

theorem lastGoodLevel_cons (w : CommandWord) (ws : List CommandWord) :
    lastGoodLevel (w :: ws) = (lastGoodLevel ws).or (goodLevelOperand (decode w)) := by
  rw [lastGoodLevel]
  cases lastGoodLevel ws with
  | some l => rfl
  | none =>
    cases decode w with
    | error e => rfl
    | ok i =>
      cases i with
      | setlvl tag l => simp [goodLevelOperand, setlvlOperand, Option.filter_some]
      | _ => rfl

/-- MAP_VALID after a list of words executed from `a`. -/
theorem sequential_mapValid (ws : List CommandWord) (a : Arch) :
    (sequential ws a).2.mapValid = (lastSetlvl ws).elim a.mapValid fun level => decide (level.toNat ≤ 11) := by
  induction ws generalizing a with
  | nil => rfl
  | cons w ws ih =>
    rw [sequential, ih, (replyOf_archEffect w a).mapValid_eq, lastSetlvl_cons]
    cases lastSetlvl ws <;> rfl

/-- LEVEL after a list of words executed from `a`. -/
theorem sequential_level_toNat (ws : List CommandWord) (a : Arch) :
    (sequential ws a).2.level.toNat = (lastGoodLevel ws).elim a.level.toNat BitVec.toNat := by
  induction ws generalizing a with
  | nil => rfl
  | cons w ws ih =>
    rw [sequential, ih, (replyOf_archEffect w a).level_toNat, lastGoodLevel_cons]
    cases lastGoodLevel ws <;> rfl

/-- Settles O38: `sequential_mapValid` and `sequential_level_toNat`, from the S of reset. -/
theorem levelAndMapFollowSetlvl : Obligations.LevelAndMapFollowSetlvl := by
  intro ws
  rw [sequential_mapValid, sequential_level_toNat]
  refine ⟨?_, ?_⟩
  · cases lastSetlvl ws <;> simp [Arch.reset]
  · cases lastGoodLevel ws <;> rfl

/-! ### The invariant at reset -/

/-- Settles O39: nothing is accepted, answered or taken yet. -/
theorem resetStateMeetsInv : Obligations.ResetStateMeetsInv where
  level := by decide
  depth := Nat.zero_le _
  latency := nofun
  waking := nofun
  quiet _ := ⟨rfl, rfl, rfl⟩
  proper := nofun

/-! ### Every edge keeps the invariant -/

section
variable {s : State}

/-- A reset edge brings the reset values and keeps what the host has taken (R241). -/
theorem inv_resetEdge (h : Inv s) : Inv (resetEdge s) where
  level := resetStateMeetsInv.level
  depth := resetStateMeetsInv.depth
  latency := resetStateMeetsInv.latency
  waking := resetStateMeetsInv.waking
  quiet := resetStateMeetsInv.quiet
  proper r hr := h.proper r (List.mem_append_right _ hr)

/-- A ready block has room, whatever its phase (R248). -/
theorem hasRoom_of_cmdReady (h : cmdReady s = true) : hasRoom s = true := by
  unfold cmdReady at h
  split at h
  · cases h
  · exact (Bool.and_eq_true_iff.1 h).2
  · exact (Bool.and_eq_true_iff.1 h).2

theorem length_rspBeat_le (s : State) : (rspBeat s).toList.length ≤ s.responses.length := by
  cases hb : rspBeat s with
  | none => exact Nat.zero_le _
  | some r =>
    obtain ⟨-, -, -, rest, hr⟩ := rspBeat_eq_some hb
    simp [hr]

/-- At the beats a command that transfers comes in, and a response that transfers goes out (R8, R248). -/
theorem outstanding_clockEdge (s : State) :
    outstanding (clockEdge s) + (rspBeat s).toList.length = outstanding s + (cmdBeat s).toList.length := by
  have hle := length_rspBeat_le s
  simp only [outstanding, clockEdge_accepted, clockEdge_responses, List.length_append, List.length_map, List.length_drop]
  omega

/-- The beats leave at most DEPTH commands outstanding (R248). -/
theorem outstanding_clockEdge_le (h : outstanding s ≤ Config.DEPTH) : outstanding (clockEdge s) ≤ Config.DEPTH := by
  have hbeats := outstanding_clockEdge s
  cases hc : cmdBeat s with
  | none =>
    rw [hc, Option.toList_none, List.length_nil] at hbeats
    omega
  | some w =>
    obtain ⟨-, -, hready, -⟩ := cmdBeat_eq_some hc
    have hroom : outstanding s < Config.DEPTH + (rspBeat s).toList.length :=
      of_decide_eq_true (hasRoom_of_cmdReady hready)
    rw [hc, Option.toList_some, List.length_singleton] at hbeats
    omega

/-- A block as reset left it has room (R8: DEPTH is at least 1). -/
theorem hasRoom_of_empty (ha : s.accepted = []) (hr : s.responses = []) : hasRoom s = true := by
  have hdepth := lat_pos.2
  exact decide_eq_true (by simp only [outstanding, ha, hr, List.length_nil]; omega)

/-- The reset sequence stays short of running only while `cmd_ready` is low (R243). -/
theorem phaseNext_ne_running (h : phaseNext s ≠ .running) : s.phase ≠ .running ∧ cmdReady s = false := by
  cases hp : s.phase with
  | reset => simp [cmdReady, hp]
  | waking n => simpa [phaseNext, hp] using h
  | running => simp [phaseNext, hp] at h

/-- Until `cmd_ready` has been high, the beats leave the block as reset left it (R243). -/
theorem clockEdge_quiet (h : Inv s) (hp : phaseNext s ≠ .running) :
    (clockEdge s).accepted = [] ∧ (clockEdge s).responses = [] ∧ (clockEdge s).arch = Arch.reset := by
  obtain ⟨hphase, hready⟩ := phaseNext_ne_running hp
  obtain ⟨haccepted, hresponses, harch⟩ := h.quiet hphase
  have hbeat : cmdBeat s = none := by simp [cmdBeat, hready]
  simp [haccepted, hresponses, harch, hbeat]

/-- After RST_LAT cycles low, a block as reset left it is ready (R243). -/
theorem cmdReady_of_rstLat_le {n : Nat} (hp : s.phase = .waking n) (hn : Config.rstLat ≤ n) (ha : s.accepted = [])
    (hr : s.responses = []) : cmdReady s = true := by
  simp [cmdReady, hp, hn, hasRoom_of_empty ha hr]

/-- `cmd_ready` is low for at most RST_LAT cycles (R243). -/
theorem phaseNext_waking_le (h : Inv s) {n : Nat} (hn : phaseNext s = .waking n) : n ≤ Config.rstLat := by
  obtain ⟨hphase, hready⟩ := phaseNext_ne_running (s := s) (by simp [hn])
  obtain ⟨haccepted, hresponses, -⟩ := h.quiet hphase
  cases hp : s.phase with
  | reset =>
    obtain rfl : 0 = n := by simpa [phaseNext, hp] using hn
    exact Nat.zero_le _
  | waking k =>
    obtain rfl : k + 1 = n := by simpa [phaseNext, hp, hready] using hn
    by_contra hk
    have hle : Config.rstLat ≤ k := by omega
    exact absurd (cmdReady_of_rstLat_le hp hle haccepted hresponses) (by simp [hready])
  | running => exact absurd hp hphase

/-- A command waits less than LAT: one that transfers has the rest of LAT to go, and the others one edge less (R8). -/
theorem clockEdge_wait_lt (h : ∀ x ∈ s.accepted, x.wait < Config.LAT) :
    ∀ x ∈ (clockEdge s).accepted, x.wait < Config.LAT := by
  intro x hx
  rw [clockEdge_accepted, List.mem_append, List.mem_map, List.mem_map] at hx
  obtain ⟨y, hy, rfl⟩ | ⟨w, -, rfl⟩ := hx
  · exact (Nat.sub_le y.wait 1).trans_lt (h y hy)
  · exact Nat.lt_succ_self Config.latPred

/-- The beats only move a response from the FIFO to the host. -/
theorem mem_clockEdge_responses {r : Response} :
    r ∈ (clockEdge s).responses ++ (clockEdge s).received ↔ r ∈ s.responses ++ s.received := by
  have hmoves := congrArg (r ∈ ·) (clockEdge_moves_response s)
  simpa only [List.mem_append, or_comm, eq_iff_iff] using hmoves

/-- The beats of an edge without reset keep the invariant. -/
theorem inv_clockEdge (h : Inv s) : Inv (clockEdge s) where
  level := h.level
  depth := outstanding_clockEdge_le h.depth
  latency := clockEdge_wait_lt h.latency
  waking _ hn := phaseNext_waking_le h hn
  quiet := clockEdge_quiet h
  proper r hr := h.proper r (mem_clockEdge_responses.1 hr)

/-- Executing the oldest command, taken off its FIFO, keeps the invariant: the block has run by then, one response stands
for the command, and it is proper. -/
theorem inv_issue {u t : State} {w : CommandWord} (h : Inv s) (hi : issue s = some (w, u))
    (hexec : execWord w u = .next t) : Inv t := by
  obtain ⟨rest, haccepted, rfl⟩ := issue_eq_some hi
  have hlevel := (execWord_archEffect hexec).level_le h.level
  have hrunning : s.phase = .running := by
    by_contra hp
    obtain ⟨hempty, -⟩ := h.quiet hp
    simp [haccepted] at hempty
  obtain ⟨a, r, -, -, hproper, hanswer⟩ := execWord_answersOnce w { s with accepted := rest }
  cases (hanswer _ rfl).symm.trans hexec
  constructor
  case level => exact hlevel
  case depth =>
    have hdepth := h.depth
    simp only [haccepted, answered_accepted, answered_responses, List.length_cons, List.length_append,
      List.length_nil] at hdepth ⊢
    omega
  case latency => exact fun x hx => h.latency x (haccepted ▸ List.mem_cons_of_mem _ hx)
  case waking => exact h.waking
  case quiet => exact fun hp => absurd hrunning hp
  case proper =>
    intro q hq
    obtain rfl | hq : q = r ∨ q ∈ s.responses ++ s.received := by
      simpa [or_left_comm, or_assoc] using hq
    · exact hproper
    · exact h.proper q hq

end

/-- Settles O40: the beats keep the invariant, and so does the execution of a command after them, or a reset. -/
theorem stepKeepsInv : Obligations.StepKeepsInv := by
  intro s t h hstep
  obtain ⟨-, rfl⟩ | ⟨-, -, rfl⟩ | ⟨-, w, u, hi, hexec⟩ := step_cases hstep
  · exact inv_resetEdge h
  · exact inv_clockEdge h
  · exact inv_issue (inv_clockEdge h) hi hexec

end Sys2Proof.Machine
end

section
/-! PROOFS. The statements of 20_memory.md: the serial forms are little-endian, which responses depend on what, when the
streams transfer, that CLRSTAT loses no event, and that a word that transfers was offered. -/

namespace Sys2Proof

/-! ### Serial order (R44, R45) -/

section
variable {w : Nat} (width n : Nat) (v : BitVec w)

theorem length_chunks : (chunks width n v).length = n := by simp [chunks]

theorem getElem?_chunks {k : Nat} (hk : k < n) : (chunks width n v)[k]? = some (v.extractLsb' (width * k) width) := by
  simp [chunks, hk]

/-- The lowest chunk, and the chunks of the rest of the word. -/
theorem chunks_succ : chunks width (n + 1) v = v.extractLsb' 0 width :: chunks width n (v >>> width) := by
  have hrest (k : Nat) : v.extractLsb' (width * (k + 1)) width = (v >>> width).extractLsb' (width * k) width := by
    simp only [BitVec.extractLsb', BitVec.toNat_ushiftRight, ← Nat.shiftRight_add, Nat.mul_succ, Nat.add_comm width]
  simp [chunks, List.range_succ_eq_map, Function.comp_def, hrest]

/-- Joining the chunks gives back the bits they were cut from. -/
theorem joinChunks_chunks : joinChunks (chunks width n v) = v.toNat % 2 ^ (width * n) := by
  induction n generalizing v with
  | zero => simp [chunks, joinChunks, Nat.mod_one]
  | succ n ih =>
    rw [chunks_succ, joinChunks, ih, BitVec.extractLsb'_toNat, BitVec.toNat_ushiftRight, Nat.shiftRight_zero,
      Nat.shiftRight_eq_div_pow, ← Nat.mod_mul, ← pow_add, Nat.mul_succ, Nat.add_comm width]

end

/-- A word cut into chunks that cover it comes back whole. -/
theorem ofNat_joinChunks_chunks {w width n : Nat} (h : width * n = w) (v : BitVec w) :
    BitVec.ofNat w (joinChunks (chunks width n v)) = v := by
  simp [joinChunks_chunks, h]

/-- Settles O8: every clause is a fact about `chunks` and `joinChunks`, at the sizes of commands and responses. -/
theorem serialLinksAreLittleEndian : Obligations.SerialLinksAreLittleEndian := by
  refine ⟨fun w _ hk => getElem?_chunks 8 16 w hk, fun w _ hk => getElem?_chunks 32 4 w hk,
    fun w _ hk => getElem?_chunks 8 12 w hk, fun w _ hk => getElem?_chunks 32 3 w hk, fun c r => ?lengths,
    fun w => ?command, fun w => ?response, fun bs => ?bytes, fun ls => ?lanes⟩
  case lengths => exact ⟨length_chunks 8 16 c, length_chunks 32 4 c, length_chunks 8 12 r, length_chunks 32 3 r⟩
  case command =>
    simp [commandOfBytes, commandBytes, commandOfLanes, commandLanes, length_chunks, ofNat_joinChunks_chunks]
  case response =>
    simp [responseOfBytes, responseBytes, responseOfLanes, responseLanes, length_chunks, ofNat_joinChunks_chunks]
  case bytes => exact ⟨fun h => if_neg h, fun h => if_neg h⟩
  case lanes => exact ⟨fun h => if_neg h, fun h => if_neg h⟩

/-! ### A word that encodes a command is read as that command -/

/-- The operand fields of a packed word are the ones packed. -/
theorem packCommand_operands (op : BitVec 4) (tag : BitVec 8) (a b c : Word) :
    aField (packCommand op tag a b c) = a ∧ bField (packCommand op tag a b c) = b ∧
      cField (packCommand op tag a b c) = c := by
  refine ⟨?_, ?_, ?_⟩ <;>
    · apply BitVec.eq_of_getLsbD_eq
      intro k hk
      grind [aField, bField, cField, packCommand]

theorem mask6_setWidth (mask : BitVec 6) : mask6 (mask.setWidth 32) = mask := by
  apply BitVec.eq_of_toNat_eq
  rw [mask6, BitVec.extractLsb'_toNat, Nat.shiftRight_zero, BitVec.toNat_setWidth_of_le (by decide),
    Nat.mod_eq_of_lt mask.isLt]

theorem decode_of_legal {w : CommandWord} (h : legal w = true) : decode w = .ok (decodeLegal w) := by
  have hnone : reservedEncoding w = none := Option.isNone_iff_eq_none.1 h
  rw [decode, hnone]

/-- Each opcode selects the command it was packed for. -/
theorem decodeLegal_encode (i : Instr) : decodeLegal (encode i) = i := by
  cases i with
  | nop tag => simp [decodeLegal, encode, packCommand_header, Opcode.nop]
  | setlvl tag level => simp [decodeLegal, encode, packCommand_header, packCommand_operands, Opcode.setlvl]
  | getcfg tag => simp [decodeLegal, encode, packCommand_header, Opcode.getcfg]
  | clrstat tag mask =>
    simp [decodeLegal, encode, packCommand_header, packCommand_operands, mask6_setWidth, Opcode.clrstat]
  | tcell tag row col => simp [decodeLegal, encode, packCommand_header, packCommand_operands, Opcode.tcell]
  | tsample tag x y => simp [decodeLegal, encode, packCommand_header, packCommand_operands, Opcode.tsample]
  | tcmp tag lum thr => simp [decodeLegal, encode, packCommand_header, packCommand_operands, Opcode.tcmp]
  | dither tag x y lum => simp [decodeLegal, encode, packCommand_header, packCommand_operands, Opcode.dither]

theorem legal_encode (i : Instr) : legal (encode i) = true := by
  cases i with
  | nop tag => exact (Laws.EncodeHeader.nop tag).1
  | setlvl tag level => exact (Laws.EncodeHeader.setlvl tag level).1
  | getcfg tag => exact (Laws.EncodeHeader.getcfg tag).1
  | clrstat tag mask => exact (Laws.EncodeHeader.clrstat tag mask).1
  | tcell tag row col => exact (Laws.EncodeHeader.tcell tag row col).1
  | tsample tag x y => exact (Laws.EncodeHeader.tsample tag x y).1
  | tcmp tag lum thr => exact (Laws.EncodeHeader.tcmp tag lum thr).1
  | dither tag x y lum => exact (Laws.EncodeHeader.dither tag x y lum).1

theorem decode_encode (i : Instr) : decode (encode i) = .ok i := by
  rw [decode_of_legal (legal_encode i), decodeLegal_encode]

namespace Machine

theorem execWord_of_ok {w : CommandWord} {i : Instr} (h : decode w = .ok i) : execWord w = exec i := by
  funext s
  rw [execWord, h]

theorem execWord_of_error {w : CommandWord} {e : DecodeError} (h : decode w = .error e) :
    execWord w = fun s => .next (s.raiseIllegal w) := by
  funext s
  rw [execWord, h]

theorem execWord_encode (i : Instr) : execWord (encode i) = exec i := execWord_of_ok (decode_encode i)

/-! ### What a command answers, an equation per case -/

section
variable {s : State}

theorem execSetlvl_of_tooLarge (tag : BitVec 8) {level : Word} (h : levelTooLarge level = true) (s : State) :
    execSetlvl tag level s = .next ((s.setMapValid false).raise tag Opcode.setlvl .param) := if_pos h

theorem execSetlvl_of_fits (tag : BitVec 8) {level : Word} (h : levelTooLarge level = false) (s : State) :
    execSetlvl tag level s =
      .next (s.answered ⟨levelOperand level, true, s.arch.status⟩ ⟨tag, Opcode.setlvl, .ok, false, 0, 0⟩) :=
  if_neg (Bool.eq_false_iff.1 h)

theorem execTcell_of_noMap (tag : BitVec 8) (i j : Word) (hm : s.arch.mapValid = false) :
    execTcell tag i j s = .next (s.raise tag Opcode.tcell .nomap) := by
  simp [execTcell, hm]

theorem execTcell_of_outside (tag : BitVec 8) {i j : Word} (hm : s.arch.mapValid = true)
    (ho : (s.outside i || s.outside j) = true) :
    execTcell tag i j s = .next (s.raise tag Opcode.tcell .range) := by
  simp only [execTcell, hm, ho, Bool.not_true, Bool.false_eq_true, if_false, if_true]

theorem execTcell_of_inside (tag : BitVec 8) {i j : Word} (hm : s.arch.mapValid = true)
    (ho : (s.outside i || s.outside j) = false) :
    execTcell tag i j s = .next (s.answered s.arch ⟨tag, Opcode.tcell, .ok, false,
      BitVec.ofNat 32 (rank s.power i.toNat j.toNat), thrBits (rank s.power i.toNat j.toNat) s.power⟩) := by
  simp only [execTcell, hm, ho, Bool.not_true, Bool.false_eq_true, if_false, respondCell_eq_answered]

theorem execTsample_of_noMap (tag : BitVec 8) (x y : Word) (hm : s.arch.mapValid = false) :
    execTsample tag x y s = .next (s.raise tag Opcode.tsample .nomap) := by
  simp [execTsample, hm]

theorem execTsample_of_map (tag : BitVec 8) (x y : Word) (hm : s.arch.mapValid = true) :
    execTsample tag x y s = .next (s.answered s.arch ⟨tag, Opcode.tsample, .ok, false,
      BitVec.ofNat 32 (s.sampleRank x y), thrBits (s.sampleRank x y) s.power⟩) := by
  simp [execTsample, hm, respondCell_eq_answered]

theorem execTcmp_eq_answered (tag : BitVec 8) (lum thr : Word) (s : State) :
    execTcmp tag lum thr s = .next (s.answered
      ((s.setStatusIf (nanOfPair lum thr) .nanSeen).setStatusIf (oorOfLuminance lum) .oorSeen).arch
      ⟨tag, Opcode.tcmp, .ok, decideOn lum thr, 0, 0⟩) := by
  rw [execTcmp, respond_eq_answered, setStatusIf_twice_answered]

theorem execDither_of_noMap (tag : BitVec 8) (x y lum : Word) (hm : s.arch.mapValid = false) :
    execDither tag x y lum s = .next (s.raise tag Opcode.dither .nomap) := by
  simp [execDither, hm]

theorem execDither_of_map (tag : BitVec 8) (x y lum : Word) (hm : s.arch.mapValid = true) :
    execDither tag x y lum s = .next (s.answered
      ((s.setStatusIf (nanOfLuminance lum) .nanSeen).setStatusIf (oorOfLuminance lum) .oorSeen).arch
      ⟨tag, Opcode.dither, .ok, decideOn lum (thrBits (s.sampleRank x y) s.power), BitVec.ofNat 32 (s.sampleRank x y),
        thrBits (s.sampleRank x y) s.power⟩) := by
  simp only [execDither, hm, Bool.not_true, Bool.false_eq_true, if_false, respondCell_eq_answered,
    setStatusIf_twice_answered, setStatusIf_power]

end

/-! ### Which responses depend on what (R46) -/

/-- `f` gives the same response from `s` and from `t`, whatever it makes of their S. -/
def SameResponse (f : State → Host.Outcome State Fault Refusal) (s t : State) : Prop :=
  ∃ (a b : Arch) (r : Response), f s = .next (s.answered a r) ∧ f t = .next (t.answered b r)

/-- A command with the same response from two S has the same reply to its word. -/
theorem replyOf_encode_eq_of_sameResponse {i : Instr} {a b : Arch}
    (h : SameResponse (exec i) { State.reset with arch := a } { State.reset with arch := b }) :
    (replyOf (encode i) a).1 = (replyOf (encode i) b).1 := by
  obtain ⟨a', b', r, ha, hb⟩ := h
  rw [replyOf, replyOf, execWord_encode, ha, hb]
  rfl

/-- TCMP reads nothing of S (R135). -/
theorem execTcmp_sameResponse (tag : BitVec 8) (lum thr : Word) (s t : State) :
    SameResponse (execTcmp tag lum thr) s t :=
  ⟨_, _, _, execTcmp_eq_answered tag lum thr s, execTcmp_eq_answered tag lum thr t⟩

section
variable {s t : State}

theorem power_eq_of_level (hl : s.arch.level = t.arch.level) : s.power = t.power := by rw [State.power, State.power, hl]

theorem outside_eq_of_level (hl : s.arch.level = t.arch.level) (coord : Word) : s.outside coord = t.outside coord := by
  rw [State.outside, State.outside, State.size, State.size, power_eq_of_level hl]

theorem sampleRank_eq_of_level (hl : s.arch.level = t.arch.level) (x y : Word) :
    s.sampleRank x y = t.sampleRank x y := by
  rw [State.sampleRank, State.sampleRank, power_eq_of_level hl]

/-- With a map, TCELL reads only LEVEL: for the bound of its coordinates, and for the cell (R111). -/
theorem execTcell_sameResponse (tag : BitVec 8) (i j : Word) (hl : s.arch.level = t.arch.level)
    (hs : s.arch.mapValid = true) (ht : t.arch.mapValid = true) : SameResponse (execTcell tag i j) s t := by
  have houtside : (s.outside i || s.outside j) = (t.outside i || t.outside j) := by
    rw [outside_eq_of_level hl, outside_eq_of_level hl]
  cases ho : t.outside i || t.outside j with
  | true => exact ⟨_, _, _, execTcell_of_outside tag hs (houtside.trans ho), execTcell_of_outside tag ht ho⟩
  | false =>
    have hcell := execTcell_of_inside tag hs (houtside.trans ho)
    rw [power_eq_of_level hl] at hcell
    exact ⟨_, _, _, hcell, execTcell_of_inside tag ht ho⟩

/-- With a map, TSAMPLE reads only LEVEL, for the cell (R112). -/
theorem execTsample_sameResponse (tag : BitVec 8) (x y : Word) (hl : s.arch.level = t.arch.level)
    (hs : s.arch.mapValid = true) (ht : t.arch.mapValid = true) : SameResponse (execTsample tag x y) s t := by
  have hcell := execTsample_of_map tag x y hs
  rw [sampleRank_eq_of_level hl, power_eq_of_level hl] at hcell
  exact ⟨_, _, _, hcell, execTsample_of_map tag x y ht⟩

/-- With a map, the response of DITHER depends only on LEVEL, for the cell it compares with (R136). -/
theorem execDither_sameResponse (tag : BitVec 8) (x y lum : Word) (hl : s.arch.level = t.arch.level)
    (hs : s.arch.mapValid = true) (ht : t.arch.mapValid = true) : SameResponse (execDither tag x y lum) s t := by
  have hpixel := execDither_of_map tag x y lum hs
  rw [sampleRank_eq_of_level hl, power_eq_of_level hl] at hpixel
  exact ⟨_, _, _, hpixel, execDither_of_map tag x y lum ht⟩

end

/-- Settles O30: a reply is the response of the command, and the four commands read at most LEVEL for theirs. -/
theorem cellResponsesDependOnLevelOnly : Obligations.CellResponsesDependOnLevelOnly :=
  fun _ _ tag x y z =>
    ⟨replyOf_encode_eq_of_sameResponse (execTcmp_sameResponse tag x y _ _), fun hl ha hb =>
      ⟨replyOf_encode_eq_of_sameResponse (execTcell_sameResponse tag x y hl ha hb),
       replyOf_encode_eq_of_sameResponse (execTsample_sameResponse tag x y hl ha hb),
       replyOf_encode_eq_of_sameResponse (execDither_sameResponse tag x y z hl ha hb)⟩⟩

/-! ### When the streams transfer (R43) -/

section
variable {s : State}

theorem isSome_cmdBeat :
    (cmdBeat s).isSome = true ↔ s.cycle.rst = false ∧ s.cycle.cmdValid = true ∧ cmdReady s = true := by
  simp [cmdBeat, and_assoc]

/-- Of a host that keeps its offer, the block takes the word now offered (R245). -/
theorem eq_cmdData_of_hostKeepsOffer (h : HostKeepsOffer s) {w : CommandWord} (hw : cmdBeat s = some w) :
    w = s.cycle.cmdData := by
  obtain ⟨hrst, -, -, rfl⟩ := cmdBeat_eq_some hw
  obtain hnow | hheld := takenWord_mem s
  · exact hnow
  · exact (h _ hheld hrst).2.symm

/-- A response is offered only while one is pending. -/
theorem responses_ne_nil_of_rspValid (h : rspValid s = true) : s.responses ≠ [] := by
  unfold rspValid at h
  split at h
  · cases h
  · simpa using h
  · simpa using h

theorem isSome_rspBeat :
    (rspBeat s).isSome = true ↔ s.cycle.rst = false ∧ rspValid s = true ∧ s.cycle.rspReady = true := by
  refine ⟨fun h => ?_, fun ⟨hrst, hvalid, hready⟩ => ?_⟩
  · obtain ⟨r, hr⟩ := Option.isSome_iff_exists.1 h
    obtain ⟨hrst, hvalid, hready, -⟩ := rspBeat_eq_some hr
    exact ⟨hrst, hvalid, hready⟩
  · simp [rspBeat, hrst, hvalid, hready, List.isSome_head?, responses_ne_nil_of_rspValid hvalid]

/-- The response that transfers is the one on the lines. -/
theorem rspData_of_rspBeat {r : Response} (h : rspBeat s = some r) : rspData s = some (encodeResponse r) := by
  obtain ⟨-, hvalid, -, rest, hresponses⟩ := rspBeat_eq_some h
  simp [rspData, hvalid, hresponses]

theorem rspBeat_of_rst (h : s.cycle.rst = true) : rspBeat s = none := by simp [rspBeat, h]

/-- Executing a word leaves everything but S and the responses as it was. -/
theorem execWord_frame {t : State} {w : CommandWord} (h : execWord w s = .next t) :
    ∃ a r, t = s.answered a r := by
  obtain ⟨a, r, -, hexec⟩ := execWord_eq_reply w s
  cases hexec.symm.trans h
  exact ⟨a, r, rfl⟩

/-- The response that transfers goes to the host, and no other does. -/
theorem step_received {t : State} (h : step s = .next t) : t.received = s.received ++ (rspBeat s).toList := by
  obtain ⟨hrst, rfl⟩ | ⟨-, -, rfl⟩ | ⟨-, w, u, hi, hexec⟩ := step_cases h
  · simp [rspBeat_of_rst hrst]
  · rfl
  · obtain ⟨a, r, rfl⟩ := execWord_frame hexec
    obtain ⟨rest, -, rfl⟩ := issue_eq_some hi
    rfl

/-- The beats put the word that transfers at the end of the accepted FIFO. -/
theorem clockEdge_words (s : State) :
    (clockEdge s).accepted.map (·.word) = s.accepted.map (·.word) ++ (cmdBeat s).toList := by
  simp [Function.comp_def, Accepted.tick, accept]

/-- An edge without reset leaves the accepted words as the beats left them, or takes the oldest off. -/
theorem step_words {t : State} (hrst : s.cycle.rst = false) (h : step s = .next t) :
    t.accepted.map (·.word) = s.accepted.map (·.word) ++ (cmdBeat s).toList ∨
      ∃ w, w :: t.accepted.map (·.word) = s.accepted.map (·.word) ++ (cmdBeat s).toList := by
  rw [← clockEdge_words]
  obtain hnone | ⟨w, u, a, r, hi, -, hsome⟩ := step_cases_of_not_rst hrst
  · cases hnone.symm.trans h
    exact .inl rfl
  · cases hsome.symm.trans h
    obtain ⟨rest, haccepted, rfl⟩ := issue_eq_some hi
    exact .inr ⟨w, by simp only [haccepted, List.map_cons, answered_accepted]⟩

end

/-- Settles O42: the two beats as equivalences, and what an edge does with them. -/
theorem beatsFollowTheHandshake : Obligations.BeatsFollowTheHandshake :=
  fun _ => ⟨isSome_cmdBeat, fun hkeeps _ => eq_cmdData_of_hostKeepsOffer hkeeps, isSome_rspBeat,
    fun _ => rspData_of_rspBeat, fun _ => step_received, fun _ => step_words⟩

/-! ### CLRSTAT loses no event (R50) -/

theorem sequential_append (ws vs : List CommandWord) (a : Arch) :
    sequential (ws ++ vs) a =
      ((sequential ws a).1 ++ (sequential vs (sequential ws a).2).1, (sequential vs (sequential ws a).2).2) := by
  induction ws generalizing a with
  | nil => rfl
  | cons w ws ih => simp only [List.cons_append, sequential, ih, List.append_assoc]

/-- Every word gets one response (R42). -/
theorem length_sequential (ws : List CommandWord) (a : Arch) : (sequential ws a).1.length = ws.length := by
  induction ws generalizing a with
  | nil => rfl
  | cons w ws ih =>
    obtain ⟨b, r, hreply, -⟩ := execWord_eq_reply w { State.reset with arch := a }
    have hreply : replyOf w a = ([r], b) := hreply
    simp [sequential, hreply, ih]

/-- CLRSTAT answers the STATUS from before and clears what the mask selects (R166). -/
theorem replyOf_clrstat (tag : BitVec 8) (mask : BitVec 6) (a : Arch) :
    replyOf (encode (.clrstat tag mask)) a =
      ([⟨tag, Opcode.clrstat, .ok, false, 0, a.statusWord⟩], ⟨a.level, a.mapValid, a.status &&& ~~~mask⟩) := by
  rw [replyOf, execWord_encode]
  rfl

/-- The word is no CLRSTAT. -/
def NotClrstat (w : CommandWord) : Prop := ∀ tag mask, decode w ≠ .ok (.clrstat tag mask)

/-- Words that are no CLRSTAT keep every STATUS bit that is set (R26). -/
theorem sequential_status_getLsbD {ws : List CommandWord} (h : ∀ w ∈ ws, NotClrstat w) {a : Arch} {k : Nat}
    (hk : a.status.getLsbD k = true) : (sequential ws a).2.status.getLsbD k = true := by
  induction ws generalizing a with
  | nil => exact hk
  | cons w ws ih =>
    obtain ⟨hw, hws⟩ := List.forall_mem_cons.1 h
    exact ih hws ((replyOf_archEffect w a).status_getLsbD hw hk)

/-- S with more STATUS bits set. -/
def Arch.withBits (a : Arch) (bits : BitVec 6) : Arch := ⟨a.level, a.mapValid, bits ||| a.status⟩

/-- `s` with more STATUS bits set. -/
def State.withBits (s : State) (bits : BitVec 6) : State := { s with arch := s.arch.withBits bits }

@[simp] theorem withBits_arch (s : State) (bits : BitVec 6) : (s.withBits bits).arch = s.arch.withBits bits := rfl
@[simp] theorem withBits_status (a : Arch) (bits : BitVec 6) : (a.withBits bits).status = bits ||| a.status := rfl

/-- `f` never reads STATUS to change S: STATUS bits set before `f` stand after it, and S is otherwise the same. -/
def CarriesBits (f : State → Host.Outcome State Fault Refusal) : Prop :=
  ∀ (s : State) (bits : BitVec 6), ∃ t u,
    f s = .next t ∧ f (s.withBits bits) = .next u ∧ u.arch = t.arch.withBits bits

theorem raise_arch_withBits (s : State) (bits : BitVec 6) (tag : BitVec 8) (op : BitVec 4) (e : ErrorCause) :
    ((s.withBits bits).raise tag op e).arch = (s.raise tag op e).arch.withBits bits := by
  simp only [raise_eq_answered, answered_arch, Arch.withBits, withBits_arch, BitVec.or_assoc]

theorem setStatusIf_twice_arch_withBits (s : State) (bits : BitVec 6) (c c' : Bool) (b b' : StatusBit) :
    (((s.withBits bits).setStatusIf c b).setStatusIf c' b').arch =
      ((s.setStatusIf c b).setStatusIf c' b').arch.withBits bits := by
  simp only [setStatusIf_eq, Arch.withBits, withBits_arch, BitVec.or_assoc]

theorem execSetlvl_carriesBits (tag : BitVec 8) (level : Word) : CarriesBits (execSetlvl tag level) := by
  intro s bits
  cases hl : levelTooLarge level with
  | true =>
    exact ⟨_, _, execSetlvl_of_tooLarge tag hl s, execSetlvl_of_tooLarge tag hl _,
      raise_arch_withBits (s.setMapValid false) bits tag _ .param⟩
  | false => exact ⟨_, _, execSetlvl_of_fits tag hl s, execSetlvl_of_fits tag hl _, rfl⟩

theorem execTcell_carriesBits (tag : BitVec 8) (i j : Word) : CarriesBits (execTcell tag i j) := by
  intro s bits
  cases hm : s.arch.mapValid with
  | false =>
    exact ⟨_, _, execTcell_of_noMap tag i j hm, execTcell_of_noMap tag i j hm, raise_arch_withBits s bits tag _ .nomap⟩
  | true =>
    cases ho : s.outside i || s.outside j with
    | true =>
      exact ⟨_, _, execTcell_of_outside tag hm ho, execTcell_of_outside tag hm ho,
        raise_arch_withBits s bits tag _ .range⟩
    | false => exact ⟨_, _, execTcell_of_inside tag hm ho, execTcell_of_inside tag hm ho, rfl⟩

theorem execTsample_carriesBits (tag : BitVec 8) (x y : Word) : CarriesBits (execTsample tag x y) := by
  intro s bits
  cases hm : s.arch.mapValid with
  | false =>
    exact ⟨_, _, execTsample_of_noMap tag x y hm, execTsample_of_noMap tag x y hm,
      raise_arch_withBits s bits tag _ .nomap⟩
  | true => exact ⟨_, _, execTsample_of_map tag x y hm, execTsample_of_map tag x y hm, rfl⟩

theorem execTcmp_carriesBits (tag : BitVec 8) (lum thr : Word) : CarriesBits (execTcmp tag lum thr) :=
  fun s bits => ⟨_, _, execTcmp_eq_answered tag lum thr s, execTcmp_eq_answered tag lum thr _,
    setStatusIf_twice_arch_withBits s bits _ _ _ _⟩

theorem execDither_carriesBits (tag : BitVec 8) (x y lum : Word) : CarriesBits (execDither tag x y lum) := by
  intro s bits
  cases hm : s.arch.mapValid with
  | false =>
    exact ⟨_, _, execDither_of_noMap tag x y lum hm, execDither_of_noMap tag x y lum hm,
      raise_arch_withBits s bits tag _ .nomap⟩
  | true =>
    exact ⟨_, _, execDither_of_map tag x y lum hm, execDither_of_map tag x y lum hm,
      setStatusIf_twice_arch_withBits s bits _ _ _ _⟩

/-- Every word but a CLRSTAT carries the STATUS bits set before it. -/
theorem execWord_carriesBits {w : CommandWord} (hw : NotClrstat w) : CarriesBits (execWord w) := by
  cases hd : decode w with
  | error e =>
    rw [execWord_of_error hd]
    exact fun s bits => ⟨_, _, rfl, rfl, raise_arch_withBits s bits _ _ .illegal⟩
  | ok i =>
    rw [execWord_of_ok hd]
    cases i with
    | nop tag => exact fun s bits => ⟨_, _, rfl, rfl, rfl⟩
    | setlvl tag level => exact execSetlvl_carriesBits tag level
    | getcfg tag => exact fun s bits => ⟨_, _, rfl, rfl, rfl⟩
    | clrstat tag mask => exact absurd hd (hw tag mask)
    | tcell tag i j => exact execTcell_carriesBits tag i j
    | tsample tag x y => exact execTsample_carriesBits tag x y
    | tcmp tag lum thr => exact execTcmp_carriesBits tag lum thr
    | dither tag x y lum => exact execDither_carriesBits tag x y lum

theorem replyOf_withBits {w : CommandWord} (hw : NotClrstat w) (a : Arch) (bits : BitVec 6) :
    (replyOf w (a.withBits bits)).2 = (replyOf w a).2.withBits bits := by
  obtain ⟨t, u, ht, hu, harch⟩ := execWord_carriesBits hw { State.reset with arch := a } bits
  have hu : execWord w { State.reset with arch := a.withBits bits } = .next u := hu
  rw [replyOf, replyOf, ht, hu]
  exact harch

/-- Words that are no CLRSTAT carry the STATUS bits set before them, and add their own. -/
theorem sequential_withBits {ws : List CommandWord} (h : ∀ w ∈ ws, NotClrstat w) (a : Arch) (bits : BitVec 6) :
    (sequential ws (a.withBits bits)).2 = (sequential ws a).2.withBits bits := by
  induction ws generalizing a with
  | nil => rfl
  | cons w ws ih =>
    obtain ⟨hw, hws⟩ := List.forall_mem_cons.1 h
    rw [sequential, sequential, replyOf_withBits hw, ih hws]

theorem statusWord_toNat (a : Arch) : a.statusWord.toNat = a.status.toNat :=
  BitVec.toNat_setWidth_of_le (by decide)

theorem statusWord_getLsbD (a : Arch) {k : Nat} (hk : k < 6) : a.statusWord.getLsbD k = a.status.getLsbD k := by
  simp [Arch.statusWord, BitVec.getLsbD_setWidth]; omega

/-- The reading of a list of words around a CLRSTAT: the words before it, its reply, and the words after it from the S
it leaves. -/
theorem sequential_around_clrstat (ws after : List CommandWord) (tag : BitVec 8) (mask : BitVec 6) (a b : Arch)
    (hb : (sequential ws a).2 = b) :
    sequential (ws ++ encode (.clrstat tag mask) :: after) a =
      ((sequential ws a).1 ++ ⟨tag, Opcode.clrstat, .ok, false, 0, b.statusWord⟩ ::
        (sequential after ⟨b.level, b.mapValid, b.status &&& ~~~mask⟩).1,
       (sequential after ⟨b.level, b.mapValid, b.status &&& ~~~mask⟩).2) := by
  rw [sequential_append, hb, sequential, replyOf_clrstat]
  rfl

/-- STATUS after words that are no CLRSTAT: what stood before them, and what they set from STATUS 0. -/
theorem sequential_status_from {ws : List CommandWord} (h : ∀ w ∈ ws, NotClrstat w) (level : BitVec 4) (mapValid : Bool)
    (status : BitVec 6) :
    (sequential ws ⟨level, mapValid, status⟩).2.status =
      status ||| (sequential ws ⟨level, mapValid, 0⟩).2.status := by
  have hbits : (⟨level, mapValid, status⟩ : Arch) = Arch.withBits ⟨level, mapValid, 0⟩ status := by simp [Arch.withBits]
  rw [hbits, sequential_withBits h, withBits_status]

/-- Settles O54: `sequential_around_clrstat` gives the answer, the stickiness of STATUS what stands in it, and
`sequential_status_from` what stands at the end. -/
theorem clrstatLosesNoEvent : Obligations.ClrstatLosesNoEvent := by
  intro a before since after tag mask hnot
  obtain ⟨hsince, hafter⟩ := List.forall_mem_append.1 hnot
  have haround := sequential_around_clrstat (before ++ since) after tag mask a _ rfl
  refine ⟨(sequential (before ++ since) a).2.statusWord, ?answer, statusWord_toNat _, ?earlier, ?later⟩
  case answer =>
    rw [haround, ← List.length_append, ← length_sequential (before ++ since) a,
      List.getElem?_append_right le_rfl, Nat.sub_self]
    rfl
  case earlier =>
    intro k hk hset
    rw [statusWord_getLsbD _ hk, sequential_append]
    exact sequential_status_getLsbD hsince hset
  case later =>
    intro k hk
    rw [haround, sequential_status_from hafter, statusWord_getLsbD _ hk]
    simp [hk]

/-! ### A word that transfers was offered (R43, R245) -/

/-- Every edge has a next state (R200). -/
theorem exists_step (s : State) : ∃ t, step s = .next t := by
  cases hrst : s.cycle.rst with
  | true => exact ⟨resetEdge s, by simp [step, hrst]⟩
  | false =>
    obtain hnone | ⟨_, _, _, _, -, -, hsome⟩ := step_cases_of_not_rst hrst
    · exact ⟨_, hnone⟩
    · exact ⟨_, hsome⟩

/-- The words held after an edge: none after a reset or a transfer, else those before and the one offered (R245). -/
theorem mem_held_of_step {s t : State} (h : step s = .next t) {w : CommandWord} :
    w ∈ t.held ↔ s.cycle.rst = false ∧ cmdBeat s = none ∧
      (w ∈ s.held ∨ s.cycle.cmdValid = true ∧ w = s.cycle.cmdData) := by
  obtain ⟨hrst, rfl⟩ | ⟨hrst, -, rfl⟩ | ⟨hrst, v, u, hi, hexec⟩ := step_cases h
  · simp [hrst]
  · simp [hrst, mem_heldNext]
  · obtain ⟨a, r, rfl⟩ := execWord_frame hexec
    obtain ⟨rest, -, rfl⟩ := issue_eq_some hi
    simp [hrst, mem_heldNext]

section
variable {env : Nat → Cycle} {s : State}

theorem during_succ_of_step {n : Nat} {t : State} (h : step (during env s n) = .next t) :
    during env s (n + 1) = t.facing (env (n + 1)) := by
  rw [during, h]

theorem during_cycle (env : Nat → Cycle) (s : State) (n : Nat) : (during env s n).cycle = env n := by
  cases n with
  | zero => rfl
  | succ n =>
    obtain ⟨t, ht⟩ := exists_step (during env s n)
    rw [during_succ_of_step ht, facing_cycle]

theorem mem_held_during_succ {n : Nat} {w : CommandWord} :
    w ∈ (during env s (n + 1)).held ↔ (env n).rst = false ∧ cmdBeat (during env s n) = none ∧
      (w ∈ (during env s n).held ∨ (env n).cmdValid = true ∧ w = (env n).cmdData) := by
  obtain ⟨t, ht⟩ := exists_step (during env s n)
  rw [during_succ_of_step ht, facing_held, mem_held_of_step ht, during_cycle]

/-- The host offered `w` in a cycle before `n`, and from that cycle on nothing was reset and nothing transferred. -/
def OfferedBefore (env : Nat → Cycle) (s : State) (n : Nat) (w : CommandWord) : Prop :=
  ∃ m < n, (env m).cmdValid = true ∧ (env m).cmdData = w ∧
    ∀ k, m ≤ k → k < n → (env k).rst = false ∧ cmdBeat (during env s k) = none

theorem offeredBefore_succ {n : Nat} {w : CommandWord} (hrst : (env n).rst = false)
    (hbeat : cmdBeat (during env s n) = none)
    (h : OfferedBefore env s n w ∨ (env n).cmdValid = true ∧ w = (env n).cmdData) : OfferedBefore env s (n + 1) w := by
  obtain ⟨m, hm, hvalid, hdata, hquiet⟩ | ⟨hvalid, rfl⟩ := h
  · refine ⟨m, hm.trans n.lt_succ_self, hvalid, hdata, fun k hmk hk => ?_⟩
    obtain hlt | rfl := Nat.lt_succ_iff_lt_or_eq.1 hk
    · exact hquiet k hmk hlt
    · exact ⟨hrst, hbeat⟩
  · refine ⟨n, n.lt_succ_self, hvalid, rfl, fun k hnk hk => ?_⟩
    obtain rfl : k = n := by omega
    exact ⟨hrst, hbeat⟩

/-- In a run from a block to which nothing was offered, a held word was offered. -/
theorem offeredBefore_of_mem_held (hs : s.held = []) {n : Nat} {w : CommandWord}
    (h : w ∈ (during env s n).held) : OfferedBefore env s n w := by
  induction n with
  | zero => simp [during, hs] at h
  | succ n ih =>
    obtain ⟨hrst, hbeat, hoffer⟩ := mem_held_during_succ.1 h
    exact offeredBefore_succ hrst hbeat (hoffer.imp_left ih)

/-- Of a host that keeps its offers at the ports, a held word is the one on the lines. -/
theorem offered_of_mem_held (hs : s.held = []) (hkept : OffersKept env s) {n : Nat} {w : CommandWord}
    (h : w ∈ (during env s n).held) : (env n).cmdValid = true ∧ (env n).cmdData = w := by
  induction n with
  | zero => simp [during, hs] at h
  | succ n ih =>
    obtain ⟨hrst, hbeat, hoffer⟩ := mem_held_during_succ.1 h
    obtain ⟨hvalid, hdata⟩ : (env n).cmdValid = true ∧ (env n).cmdData = w :=
      hoffer.elim ih fun ⟨hvalid, hdata⟩ => ⟨hvalid, hdata.symm⟩
    obtain ⟨hstillValid, hsameData⟩ := hkept n hrst hvalid hbeat
    exact ⟨hstillValid, hsameData.trans hdata⟩

theorem hostKeepsOffer_during (hs : s.held = []) (hkept : OffersKept env s) (n : Nat) :
    HostKeepsOffer (during env s n) := fun w hw _ => by
  rw [during_cycle]
  exact offered_of_mem_held hs hkept hw

end

/-- Settles O55: the word taken is on the lines or held, and a held word was offered. -/
theorem transferredWordWasOffered : Obligations.TransferredWordWasOffered := by
  intro env s n w hs hw
  refine ⟨?_, fun hkept => ?_⟩
  · obtain ⟨-, -, -, rfl⟩ := cmdBeat_eq_some hw
    obtain hnow | hheld := takenWord_mem (during env s n)
    · exact .inl (hnow.trans (by rw [during_cycle]))
    · exact .inr (offeredBefore_of_mem_held hs hheld)
  · have hnow := eq_cmdData_of_hostKeepsOffer (hostKeepsOffer_during hs hkept n) hw
    rwa [during_cycle] at hnow

end Machine

end Sys2Proof
end

section
/-! PROOFS. The statements of 30_encoding.md on words: which words are commands, what stands in their fields, which bits of
them matter, what a reserved encoding does, and where a response's fields stand. -/

namespace Sys2Proof.Machine

/-! ### Fields of a word as bits -/

theorem extractLsb'_eq_zero_iff {n start len : Nat} {x : BitVec n} :
    x.extractLsb' start len = 0 ↔ ∀ k < len, x.getLsbD (start + k) = false := by
  constructor
  · intro h k hk
    simpa [hk] using congrArg (fun y => y.getLsbD k) h
  · intro h
    apply BitVec.eq_of_getLsbD_eq
    intro k hk
    simp [hk, h k hk]

/-- A field that lies in the low `n` bits depends on these alone. -/
theorem extractLsb'_congr_of_low {m n start len : Nat} {x y : BitVec m} (h : x.extractLsb' 0 n = y.extractLsb' 0 n)
    (hn : start + len ≤ n) : x.extractLsb' start len = y.extractLsb' start len := by
  rw [← BitVec.extractLsb'_extractLsb'_of_le hn, h, BitVec.extractLsb'_extractLsb'_of_le hn]

/-! ### Which words are commands (R64) -/

theorem exists_decode_iff_legal (w : CommandWord) : (∃ i, decode w = .ok i) ↔ legal w = true :=
  ⟨fun ⟨_, h⟩ => (decode_eq_ok h).1, fun h => ⟨_, decode_of_legal h⟩⟩

theorem legal_iff_fields (w : CommandWord) :
    legal w = true ↔ (opField w).getLsbD 3 = false ∧ rsv0Field w = 0 ∧ rsv1Field w = 0 := by
  unfold legal reservedEncoding
  split_ifs <;> simp_all

theorem opField_getLsbD_3 (w : CommandWord) : (opField w).getLsbD 3 = w.getLsbD 3 := by simp [opField]

/-- The header mask of R64 keeps OP, RSV0 and RSV1, and drops TAG. -/
theorem headerMask_getLsbD : ∀ k < 32, (0xFFFF00FF#32).getLsbD k = decide (k < 8 ∨ 16 ≤ k) := by decide

theorem maskedHeader_getLsbD (w : CommandWord) {k : Nat} (hk : k < 32) :
    (w.extractLsb' 0 32 &&& 0xFFFF00FF#32).getLsbD k = (w.getLsbD k && decide (k < 8 ∨ 16 ≤ k)) := by
  rw [BitVec.getLsbD_and, headerMask_getLsbD k hk]
  simp [hk]

theorem lt_eight_iff_getLsbD (x : Word) : x.toNat < 8 ↔ ∀ k < 32, 3 ≤ k → x.getLsbD k = false := by
  constructor
  · intro h k _ hk
    exact Nat.testBit_lt_two_pow (lt_of_lt_of_le h (Nat.pow_le_pow_right (by decide) hk : 2 ^ 3 ≤ 2 ^ k))
  · intro h
    apply Nat.lt_pow_two_of_testBit (n := 3)
    intro k hk
    rcases Nat.lt_or_ge k 32 with hlt | hge
    · exact h k hlt hk
    · exact BitVec.getLsbD_of_ge x k hge

/-- The masked header is below 8 exactly when OP is and both reserved fields are 0. -/
theorem maskedHeader_lt_eight_iff (w : CommandWord) :
    (w.extractLsb' 0 32 &&& 0xFFFF00FF#32).toNat < 8 ↔
      w.getLsbD 3 = false ∧ w.extractLsb' 4 4 = 0 ∧ w.extractLsb' 16 16 = 0 := by
  rw [lt_eight_iff_getLsbD, extractLsb'_eq_zero_iff, extractLsb'_eq_zero_iff]
  constructor
  · intro h
    have hbit (k : Nat) (hk : k < 32) (h3 : 3 ≤ k) (hkept : k < 8 ∨ 16 ≤ k) : w.getLsbD k = false := by
      simpa [maskedHeader_getLsbD w hk, hkept] using h k hk h3
    exact ⟨hbit 3 (by decide) (by decide) (by decide), fun k hk => hbit (4 + k) (by omega) (by omega) (by omega),
      fun k hk => hbit (16 + k) (by omega) (by omega) (by omega)⟩
  · rintro ⟨hop, hrsv0, hrsv1⟩ k hk h3
    rw [maskedHeader_getLsbD w hk]
    by_cases hkept : k < 8 ∨ 16 ≤ k
    · have hbit : w.getLsbD k = false := by
        rcases hkept with hlow | hhigh
        · obtain rfl | h4 := Nat.eq_or_lt_of_le h3
          · exact hop
          · rw [← Nat.add_sub_of_le h4]
            exact hrsv0 (k - 4) (by omega)
        · rw [← Nat.add_sub_of_le hhigh]
          exact hrsv1 (k - 16) (by omega)
      rw [hbit, Bool.false_and]
    · rw [decide_eq_false hkept, Bool.and_false]

theorem exists_eq_ofNat_iff_lt (x : Word) : (∃ k < 8, x = BitVec.ofNat 32 k) ↔ x.toNat < 8 := by
  constructor
  · rintro ⟨k, hk, rfl⟩
    exact lt_of_le_of_lt (Nat.mod_le k _) hk
  · exact fun h => ⟨x.toNat, h, by simp⟩

theorem legal_iff_bits (w : CommandWord) :
    legal w = true ↔ w.getLsbD 3 = false ∧ w.extractLsb' 4 4 = 0 ∧ w.extractLsb' 16 16 = 0 := by
  rw [legal_iff_fields, opField_getLsbD_3]
  rfl

/-- Settles O3: both forms of R64 say that the word is `legal`. -/
theorem headerMatchDecodes : Obligations.HeaderMatchDecodes := by
  intro w
  rw [exists_decode_iff_legal, exists_eq_ofNat_iff_lt, maskedHeader_lt_eight_iff, legal_iff_bits]
  exact ⟨Iff.rfl, Iff.rfl⟩

/-- Settles O2: the encoding is legal (`legal_encode`), and `decodeLegal` reads it back (`decodeLegal_encode`). -/
theorem decodeOfEncodeIsIdentity : Obligations.DecodeOfEncodeIsIdentity := decode_encode

/-- Settles O1: the model evaluates each word. -/
theorem specWordsDecode : Obligations.SpecWordsDecode := by
  unfold Obligations.SpecWordsDecode
  decide

/-! ### What stands in the fields of a command (R61 to R63) -/

theorem mask6_aField (w : CommandWord) : mask6 (aField w) = w.extractLsb' 32 6 := by
  apply BitVec.eq_of_getLsbD_eq
  intro k hk
  simp [mask6, aField, hk, show k < 32 by omega]

/-- Settles O5: the word is legal, so its OP is the opcode of its command (`decodeLegal_opcode`), and each arm of
`decodeLegal` takes its operands from the fields. -/
theorem decodedOperandsAreWordFields : Obligations.DecodedOperandsAreWordFields := by
  intro w i h
  obtain ⟨hl, rfl⟩ := decode_eq_ok h
  have hop := decodeLegal_opcode hl
  revert hop
  unfold decodeLegal
  split <;> intro hop
  case h_1 => exact ⟨hop.symm, rfl⟩
  case h_2 => exact ⟨hop.symm, rfl, rfl⟩
  case h_3 => exact ⟨hop.symm, rfl⟩
  case h_4 => exact ⟨hop.symm, rfl, mask6_aField w⟩
  case h_5 => exact ⟨hop.symm, rfl, rfl, rfl⟩
  case h_6 => exact ⟨hop.symm, rfl, rfl, rfl⟩
  case h_7 => exact ⟨hop.symm, rfl, rfl, rfl⟩
  case h_8 => exact ⟨hop.symm, rfl, rfl, rfl, rfl⟩

/-! ### Reserved encodings (R65) -/

theorem eight_le_iff_getLsbD_3 : ∀ op : BitVec 4, 8 ≤ op.toNat ↔ op.getLsbD 3 = true := by decide

theorem execWord_of_not_legal {w : CommandWord} (h : legal w ≠ true) : execWord w = fun s => .next (s.raiseIllegal w) := by
  cases hd : decode w with
  | error e => exact execWord_of_error hd
  | ok i => exact absurd (decode_eq_ok hd).1 h

/-- Settles O4: a word with a reserved encoding is not `legal`, and then it raises ILLEGAL. -/
theorem reservedEncodingsRaiseIllegal : Obligations.ReservedEncodingsRaiseIllegal := by
  intro w s hres
  have hl : legal w ≠ true := by
    rw [Ne, legal_iff_fields]
    rintro ⟨hop, hrsv0, hrsv1⟩
    rcases hres with hop8 | hne | hne
    · exact Bool.noConfusion (hop.symm.trans ((eight_le_iff_getLsbD_3 (opField w)).1 hop8))
    · exact hne hrsv0
    · exact hne hrsv1
  rw [execWord_of_not_legal hl]
  exact congrArg Host.Outcome.next (raiseIllegal_eq_answered s w)

/-! ### Fields no opcode reads (R66) -/

/-- The header always counts. -/
theorem le_usedBits (op : BitVec 4) : 32 ≤ usedBits op := by
  unfold usedBits
  split <;> decide

theorem reservedEncoding_congr {w v : CommandWord} (h : w.extractLsb' 0 32 = v.extractLsb' 0 32) :
    reservedEncoding w = reservedEncoding v := by
  have hop : opField w = opField v := extractLsb'_congr_of_low h (by decide)
  have hrsv0 : rsv0Field w = rsv0Field v := extractLsb'_congr_of_low h (by decide)
  have hrsv1 : rsv1Field w = rsv1Field v := extractLsb'_congr_of_low h (by decide)
  rw [reservedEncoding, reservedEncoding, hop, hrsv0, hrsv1]

/-- `decodeLegal` reads no bit that its opcode does not use. -/
theorem decodeLegal_congr {w v : CommandWord} (hl : legal w = true)
    (h : w.extractLsb' 0 (usedBits (opField w)) = v.extractLsb' 0 (usedBits (opField w))) :
    decodeLegal w = decodeLegal v := by
  have hused := le_usedBits (opField w)
  have hop : opField w = opField v := extractLsb'_congr_of_low h (by omega)
  have htag : tagField w = tagField v := extractLsb'_congr_of_low h (by omega)
  have ha (hn : 64 ≤ usedBits (opField w)) : aField w = aField v := extractLsb'_congr_of_low h hn
  have hb (hn : 96 ≤ usedBits (opField w)) : bField w = bField v := extractLsb'_congr_of_low h hn
  have hc (hn : 128 ≤ usedBits (opField w)) : cField w = cField v := extractLsb'_congr_of_low h hn
  have hmask (hn : 38 ≤ usedBits (opField w)) : mask6 (aField w) = mask6 (aField v) := by
    rw [mask6_aField, mask6_aField, extractLsb'_congr_of_low h hn]
  have hlow := low3_eq_of_not_getLsbD_3 (opField_of_legal hl)
  unfold decodeLegal
  rw [← hop, hlow, htag]
  split
  case h_1 => rfl
  case h_2 hn => rw [ha (by simp [usedBits, hn])]
  case h_3 => rfl
  case h_4 hn => rw [hmask (by simp [usedBits, hn])]
  case h_5 hn => rw [ha (by simp [usedBits, hn]), hb (by simp [usedBits, hn])]
  case h_6 hn => rw [ha (by simp [usedBits, hn]), hb (by simp [usedBits, hn])]
  case h_7 hn => rw [ha (by simp [usedBits, hn]), hb (by simp [usedBits, hn])]
  case h_8 =>
    have hall : usedBits (opField w) = 128 := by simp_all [usedBits]
    rw [ha (by omega), hb (by omega), hc (by omega)]

/-- Settles O6: the reserved fields lie in the header, and `decodeLegal` reads no unused bit; an illegal word answers with
its header alone. -/
theorem unusedOperandFieldsIgnored : Obligations.UnusedOperandFieldsIgnored := by
  intro w v h
  have hused := le_usedBits (opField w)
  have hres := reservedEncoding_congr (extractLsb'_congr_of_low h (Nat.le_trans (by decide) hused))
  have hop : opField w = opField v := extractLsb'_congr_of_low h (Nat.le_trans (by decide) hused)
  have htag : tagField w = tagField v := extractLsb'_congr_of_low h (Nat.le_trans (by decide) hused)
  have hdecode : decode w = decode v := by
    unfold decode
    rw [← hres]
    cases hr : reservedEncoding w with
    | some e => rfl
    | none => rw [decodeLegal_congr (by simp [legal, hr]) h]
  refine ⟨hdecode, fun s => ?_⟩
  simp only [execWord, ← hdecode, State.raiseIllegal, hop, htag]

/-! ### Response words (R67, R68) -/

/-- The fields of a response stand in its word where R67 puts them: below each field are just the fields of the lower bit
places. -/
theorem encodeResponse_fields (r : Response) :
    (encodeResponse r).extractLsb' 0 8 = r.tag ∧ (encodeResponse r).extractLsb' 8 4 = r.op ∧
      (encodeResponse r).extractLsb' 12 4 = r.rc.bits ∧ (encodeResponse r).getLsbD 16 = r.d ∧
      (encodeResponse r).extractLsb' 17 15 = 0 ∧ (encodeResponse r).extractLsb' 32 32 = r.r0 ∧
      (encodeResponse r).extractLsb' 64 32 = r.r1 := by
  refine ⟨?tag, ?op, ?rc, ?d, ?zero, ?r0, ?r1⟩
  case d => simp only [encodeResponse, BitVec.getLsbD_append]; simp
  case r1 =>
    iterate 6 refine (BitVec.extractLsb'_append_eq_of_le (by decide)).trans ?_
    exact BitVec.extractLsb'_eq_self
  all_goals
    repeat refine (BitVec.extractLsb'_append_eq_of_le (by decide)).trans ?_
    exact BitVec.extractLsb'_append_eq_right

/-- The fields of a word with bits 31 to 17 at 0, put together again, are the word. -/
theorem append_fields_eq {w : ResponseWord} (h : w.extractLsb' 17 15 = 0) :
    w.extractLsb' 64 32 ++ w.extractLsb' 32 32 ++ (0 : BitVec 15) ++ BitVec.ofBool (w.getLsbD 16) ++ w.extractLsb' 12 4 ++
      w.extractLsb' 8 4 ++ w.extractLsb' 0 8 = w := by
  rw [← h]
  apply BitVec.eq_of_getLsbD_eq
  intro k hk
  grind

theorem decodeResultCode_bits (rc : ResultCode) : decodeResultCode rc.bits = some rc := by
  cases rc with
  | ok => rfl
  | error e => cases e <;> rfl

/-- The result codes read are the numbers below 5, each as the code with this number. -/
theorem map_bits_decodeResultCode :
    ∀ v : BitVec 4, (decodeResultCode v).map ResultCode.bits = if v.toNat < 5 then some v else none := by decide

theorem bits_of_decodeResultCode {v : BitVec 4} {rc : ResultCode} (h : decodeResultCode v = some rc) : rc.bits = v := by
  have hmap := map_bits_decodeResultCode v
  rw [h, Option.map_some] at hmap
  split at hmap
  · exact Option.some.inj hmap
  · cases hmap

theorem decodeResultCode_of_five_le {v : BitVec 4} (h : 5 ≤ v.toNat) : decodeResultCode v = none := by
  have hmap := map_bits_decodeResultCode v
  rw [if_neg (Nat.not_lt.2 h)] at hmap
  exact Option.map_eq_none_iff.1 hmap

theorem decodeResponse_encodeResponse (r : Response) : decodeResponse (encodeResponse r) = some r := by
  obtain ⟨htag, hop, hrc, hd, hzero, hr0, hr1⟩ := encodeResponse_fields r
  rw [decodeResponse, if_pos hzero, hrc, decodeResultCode_bits, htag, hop, hd, hr0, hr1]
  rfl

theorem encodeResponse_of_decodeResponse {w : ResponseWord} {r : Response} (h : decodeResponse w = some r) :
    encodeResponse r = w := by
  unfold decodeResponse at h
  split at h
  · next hzero =>
    obtain ⟨rc, hrc, rfl⟩ := Option.map_eq_some_iff.1 h
    rw [encodeResponse, bits_of_decodeResultCode hrc, append_fields_eq hzero]
  · cases h

/-- Settles O7: a response's word and its fields determine each other, and the result codes read are those below 5. -/
theorem responseWordCarriesItsFields : Obligations.ResponseWordCarriesItsFields := by
  refine ⟨fun r => ?fields, fun w r h => encodeResponse_of_decodeResponse h, fun w h => ?refused⟩
  case fields =>
    obtain ⟨htag, hop, hrc, hd, hzero, hr0, hr1⟩ := encodeResponse_fields r
    refine ⟨htag, hop, hrc.trans ?_, hd, hzero, hr0, hr1, decodeResponse_encodeResponse r⟩
    cases r.rc with
    | ok => rfl
    | error e => cases e <;> rfl
  case refused => rw [decodeResponse, decodeResultCode_of_five_le h, Option.map_none, ite_self]

end Sys2Proof.Machine
end

section
/-! PROOFS. The assembler of 30_encoding.md R71 and R72: when a line is assembled, and what its word decodes
to. -/

namespace Sys2Proof.Machine

/-! ### The bounds of a line (R71) -/

theorem fitsU32_iff (v : Nat) : fitsU32 v = true ↔ v < 2 ^ 32 := decide_eq_true_iff

theorem fitsMask6_iff (v : Nat) : fitsMask6 v = true ↔ v < 64 := decide_eq_true_iff

theorem fitsTag_iff (tag : Option Nat) : fitsTag tag = true ↔ ∀ n, tag = some n → n ≤ 255 := by
  cases tag <;> simp [fitsTag]

theorem fits_iff_literalFits (l : F32Literal) : l.fits = true ↔ LiteralFits l := by
  cases l with
  | bits v => exact fitsU32_iff v
  | decimal neg digits scale => exact iff_of_true rfl trivial

theorem isSome_assemble_iff (line : AsmLine) : (assemble line).isSome = true ↔ line.wellFormed = true := by
  unfold assemble
  split
  · next h => cases line <;> simp [h]
  · next h => simp [h]

theorem assemble_command_eq_some {tag : Option Nat} {op : AsmOp} {w : CommandWord}
    (h : assemble (.command tag op) = some w) :
    fitsTag tag = true ∧ op.wellFormed = true ∧ decode w = .ok (asmInstr (BitVec.ofNat 8 (tag.getD 0)) op) := by
  unfold assemble at h
  split at h
  · next hwf =>
    cases h
    rw [AsmLine.wellFormed, Bool.and_eq_true] at hwf
    exact ⟨hwf.1, hwf.2, decode_encode _⟩
  · cases h

/-! ### The fields of a decimal literal -/

theorem nearestPattern_lt (num den : Nat) : nearestPattern num den < 2 ^ 31 :=
  lt_of_le_of_lt (Nat.min_le_right _ _) (by decide)

/-- The sign stands above the rounded pattern. -/
theorem toNat_field_decimal (neg : Bool) (digits scale : Nat) :
    (F32Literal.field (.decimal neg digits scale)).toNat =
      (if neg then 2 ^ 31 else 0) + nearestPattern digits (10 ^ scale) := by
  have hlt := nearestPattern_lt digits (10 ^ scale)
  rw [F32Literal.field, BitVec.toNat_ofNat]
  cases neg
  · simp; omega
  · simp; omega

theorem getLsbD_31_eq (v : Word) : v.getLsbD 31 = decide (2 ^ 31 ≤ v.toNat) := BitVec.msb_eq_decide v

theorem getLsbD_31_field_decimal (neg : Bool) (digits scale : Nat) :
    (F32Literal.field (.decimal neg digits scale)).getLsbD 31 = neg := by
  have hlt := nearestPattern_lt digits (10 ^ scale)
  rw [getLsbD_31_eq, toNat_field_decimal]
  cases neg
  · simpa using hlt
  · simp

theorem isLiteralField_field {l : F32Literal} (h : l.fits = true) : IsLiteralField l (F32Literal.field l) := by
  cases l with
  | bits v => exact Nat.mod_eq_of_lt ((fitsU32_iff v).1 h)
  | decimal neg digits scale => exact ⟨rfl, getLsbD_31_field_decimal neg digits scale⟩

theorem toNat_ofNat_of_fitsU32 {v : Nat} (h : fitsU32 v = true) : (BitVec.ofNat 32 v).toNat = v :=
  Nat.mod_eq_of_lt ((fitsU32_iff v).1 h)

theorem toNat_ofNat_of_fitsTag {tag : Option Nat} (h : fitsTag tag = true) :
    (BitVec.ofNat 8 (tag.getD 0)).toNat = tag.getD 0 := by
  refine Nat.mod_eq_of_lt ?_
  cases tag with
  | none => decide
  | some n => exact Nat.lt_succ_of_le ((fitsTag_iff _).1 h n rfl)

/-- Settles O52: a line is assembled when it is well-formed; its word is the encoding of its command, and each operand
within its bound keeps its value. -/
theorem assembledLinesDecode : Obligations.AssembledLinesDecode := by
  refine ⟨fun tag op => ?command, fun h a b c => ?raw, fun tag op w h => ?decoded⟩
  case command =>
    rw [isSome_assemble_iff, AsmLine.wellFormed, Bool.and_eq_true, fitsTag_iff]
    refine and_congr_right fun _ => ?_
    cases op <;> simp [AsmOp.wellFormed, fitsU32_iff, fitsMask6_iff, fits_iff_literalFits, and_assoc]
  case raw => simp [isSome_assemble_iff, AsmLine.wellFormed, fitsU32_iff, and_assoc]
  case decoded =>
    obtain ⟨htag, hop, hd⟩ := assemble_command_eq_some h
    refine ⟨_, toNat_ofNat_of_fitsTag htag, ?_⟩
    cases op with
    | nop | getcfg | clrall | rdstat | sync => exact hd
    | setlvl level => exact ⟨_, hd, toNat_ofNat_of_fitsU32 hop⟩
    | clrstat mask => exact ⟨_, hd, Nat.mod_eq_of_lt ((fitsMask6_iff mask).1 hop)⟩
    | tcell i j | tsample i j =>
      obtain ⟨hi, hj⟩ := by simpa [AsmOp.wellFormed] using hop
      exact ⟨_, _, hd, toNat_ofNat_of_fitsU32 hi, toNat_ofNat_of_fitsU32 hj⟩
    | tcmp lum thr =>
      obtain ⟨hl, ht⟩ := by simpa [AsmOp.wellFormed] using hop
      exact ⟨_, _, hd, isLiteralField_field hl, isLiteralField_field ht⟩
    | dither x y lum =>
      obtain ⟨⟨hx, hy⟩, hl⟩ := by simpa [AsmOp.wellFormed] using hop
      exact ⟨_, _, _, hd, toNat_ofNat_of_fitsU32 hx, toNat_ofNat_of_fitsU32 hy, isLiteralField_field hl⟩

/-- The word of RAW is its four words, lowest first. -/
theorem assemble_raw (h a b c : Word) : assemble (.raw h.toNat a.toNat b.toNat c.toNat) = some (c ++ b ++ a ++ h) := by
  have hfits (v : Word) : fitsU32 v.toNat = true := (fitsU32_iff _).2 v.isLt
  simp [assemble, AsmLine.wellFormed, hfits]

/-- Settles O51: a pseudo-instruction has the bounds and the command of its expansion. -/
theorem pseudoInstructionsExpand : Obligations.PseudoInstructionsExpand := by
  refine ⟨fun tag => ⟨rfl, rfl, rfl⟩, fun h a b c => ⟨_, assemble_raw h a b c, ?h, ?a, ?b, ?c⟩⟩
  case c =>
    iterate 3 refine (BitVec.extractLsb'_append_eq_of_le (by decide)).trans ?_
    exact BitVec.extractLsb'_eq_self
  all_goals
    repeat refine (BitVec.extractLsb'_append_eq_of_le (by decide)).trans ?_
    exact BitVec.extractLsb'_append_eq_right

end Sys2Proof.Machine
end

section
/-! PROOFS. A decimal literal becomes the nearest binary32 value, ties to even (30_encoding.md R71). Fields without their
sign are numbers whose values grow, so only the two neighbours of the literal's value compete, and `divRoundEven` picks
between these two. -/

namespace Sys2Proof.Machine

/-! ### The values of patterns -/

/-- The value of a pattern with sign bit 0, in units of `2^(-149)`. It is `magnitude`, on numbers, so that the pattern after
`m` is `m + 1`. -/
def unitsOfPattern (m : Nat) : Nat :=
  if m / 2 ^ 23 = 0 then m % 2 ^ 23 else (2 ^ 23 + m % 2 ^ 23) * 2 ^ (m / 2 ^ 23 - 1)

/-- The pattern of a field without its sign. -/
def patternOf (v : Word) : Nat := v.toNat % 2 ^ 31

theorem expField_eq (v : Word) : expField v = patternOf v / 2 ^ 23 := by
  rw [expField, BitVec.extractLsb'_toNat, Nat.shiftRight_eq_div_pow, patternOf]
  omega

theorem fracField_eq (v : Word) : fracField v = patternOf v % 2 ^ 23 := by
  rw [fracField, BitVec.extractLsb'_toNat, Nat.shiftRight_zero, patternOf]
  omega

theorem magnitude_eq (v : Word) : magnitude v = unitsOfPattern (patternOf v) := by
  rw [magnitude, expField_eq, fracField_eq, unitsOfPattern]

/-- A finite binary32 value is its magnitude in units, with its sign (R130). -/
theorem valQ_eq (v : Word) : valQ v = (-1) ^ (v.getLsbD 31).toNat * (magnitude v * 2 ^ (-149 : ℤ)) := by
  have hexp : v.extractLsb' 23 8 = 0 ↔ expField v = 0 := BitVec.toNat_inj.symm
  unfold valQ magnitude
  simp only [hexp]
  split_ifs with h0
  · rfl
  · obtain ⟨e, he⟩ := Nat.exists_eq_succ_of_ne_zero h0
    have hz : ((v.extractLsb' 23 8).toNat : ℤ) - 127 = 23 + (e + (-149)) := by
      change ((expField v : ℕ) : ℤ) - 127 = _
      omega
    rw [hz, he, zpow_add₀ two_ne_zero, zpow_add₀ two_ne_zero, Nat.succ_sub_one, zpow_natCast]
    change _ * ((1 + (fracField v : ℚ) * _) * _) = _
    push_cast
    ring

/-- The next pattern is one unit in the last place greater. -/
theorem unitsOfPattern_succ (m : Nat) : unitsOfPattern (m + 1) = unitsOfPattern m + 2 ^ (m / 2 ^ 23 - 1) := by
  obtain ⟨e, f, hf, rfl⟩ : ∃ e f, f < 2 ^ 23 ∧ m = 2 ^ 23 * e + f :=
    ⟨m / 2 ^ 23, m % 2 ^ 23, Nat.mod_lt _ (by decide), (Nat.div_add_mod m _).symm⟩
  have hdiv (c g : Nat) (hg : g < 2 ^ 23) : (2 ^ 23 * c + g) / 2 ^ 23 = c := by omega
  have hmod (c g : Nat) (hg : g < 2 ^ 23) : (2 ^ 23 * c + g) % 2 ^ 23 = g := by omega
  rcases Nat.lt_or_ge (f + 1) (2 ^ 23) with hin | hout
  · rw [Nat.add_assoc, unitsOfPattern, unitsOfPattern, hdiv e f hf, hmod e f hf, hdiv e _ hin, hmod e _ hin]
    split_ifs with h0
    · simp [h0]
    · ring
  · have hnext : 2 ^ 23 * e + f + 1 = 2 ^ 23 * (e + 1) + 0 := by omega
    obtain rfl : f = 2 ^ 23 - 1 := by omega
    rw [hnext, unitsOfPattern, unitsOfPattern, hdiv e _ hf, hmod e _ hf, hdiv (e + 1) 0 (by decide),
      hmod (e + 1) 0 (by decide)]
    cases e with
    | zero => rfl
    | succ e =>
      simp only [Nat.add_sub_cancel, Nat.succ_ne_zero, if_false, pow_succ 2 e]
      ring

theorem strictMono_unitsOfPattern : StrictMono unitsOfPattern :=
  strictMono_nat_of_lt_succ fun m => by
    rw [unitsOfPattern_succ]
    exact Nat.lt_add_of_pos_right (Nat.two_pow_pos _)

/-- A significand `d` in units of `2^k` is the pattern `k * 2^23 + d`, and so is the carry `d = 2^24` into the exponent. -/
theorem unitsOfPattern_of_significand {k d : Nat} (hd : d ≤ 2 ^ 24) (hk : k = 0 ∨ 2 ^ 23 ≤ d) :
    unitsOfPattern (k * 2 ^ 23 + d) = d * 2 ^ k := by
  have hbelow {k d : Nat} (hd : d < 2 ^ 24) (hk : k = 0 ∨ 2 ^ 23 ≤ d) : unitsOfPattern (k * 2 ^ 23 + d) = d * 2 ^ k := by
    rcases Nat.lt_or_ge d (2 ^ 23) with hlow | hhigh
    · obtain rfl : k = 0 := by omega
      have h0 : (0 * 2 ^ 23 + d) / 2 ^ 23 = 0 := by omega
      rw [unitsOfPattern, if_pos h0]
      omega
    · have hdiv : (k * 2 ^ 23 + d) / 2 ^ 23 = k + 1 := by omega
      have hmod : 2 ^ 23 + (k * 2 ^ 23 + d) % 2 ^ 23 = d := by omega
      rw [unitsOfPattern, hdiv, hmod, if_neg (Nat.succ_ne_zero k), Nat.add_sub_cancel]
  obtain rfl | hlt := Nat.eq_or_lt_of_le hd
  · have hcarry : k * 2 ^ 23 + 2 ^ 24 = (k + 1) * 2 ^ 23 + 2 ^ 23 := by ring
    rw [hcarry, hbelow (by decide) (.inr le_rfl)]
    ring
  · exact hbelow hlt hk

/-! ### Nearest of a growing sequence -/

/-- `f p` is as near to `x` as `f m` is, and nearer unless `m` is `p` or `p` is even. -/
def Nearest (f : Nat → Nat) (x : ℚ) (p m : Nat) : Prop :=
  |(f p : ℚ) - x| ≤ |(f m : ℚ) - x| ∧ (|(f p : ℚ) - x| = |(f m : ℚ) - x| → m = p ∨ p % 2 = 0)

section
variable {f : Nat → Nat} {x : ℚ} {a p : Nat}

/-- Of a growing sequence only the two neighbours of `x` compete. -/
theorem nearest_of_neighbours (hf : StrictMono f) (ha : (f a : ℚ) ≤ x) (hb : x ≤ f (a + 1)) (hpa : Nearest f x p a)
    (hpb : Nearest f x p (a + 1)) (m : Nat) : Nearest f x p m := by
  have hfar (h : |(f p : ℚ) - x| < |(f m : ℚ) - x|) : Nearest f x p m := ⟨h.le, fun he => absurd he h.ne⟩
  rcases Nat.lt_trichotomy m a with hlt | rfl | hgt
  · have hm : (f m : ℚ) < f a := Nat.cast_lt.2 (hf hlt)
    refine hfar (hpa.1.trans_lt ?_)
    rw [abs_of_nonpos (by linarith), abs_of_nonpos (by linarith)]
    linarith
  · exact hpa
  · obtain rfl | hgt := Nat.eq_or_lt_of_le (Nat.succ_le_of_lt hgt)
    · exact hpb
    · have hm : (f (a + 1) : ℚ) < f m := Nat.cast_lt.2 (hf hgt)
      refine hfar (hpb.1.trans_lt ?_)
      rw [abs_of_nonneg (by linarith), abs_of_nonneg (by linarith)]
      linarith

/-- The nearer of the two neighbours, the even one on a tie, is the nearest of all. -/
theorem nearest_of_nearer_neighbour (hf : StrictMono f) (ha : (f a : ℚ) ≤ x) (hb : x ≤ f (a + 1))
    (hp : (p = a ∧ x - f a ≤ f (a + 1) - x) ∨ (p = a + 1 ∧ (f (a + 1) : ℚ) - x ≤ x - f a))
    (heven : x - f a = f (a + 1) - x → p % 2 = 0) (m : Nat) : Nearest f x p m := by
  have habs : |(f a : ℚ) - x| = x - f a := by rw [abs_sub_comm, abs_of_nonneg (sub_nonneg.2 ha)]
  have habs' : |(f (a + 1) : ℚ) - x| = f (a + 1) - x := abs_of_nonneg (sub_nonneg.2 hb)
  refine nearest_of_neighbours hf ha hb ?_ ?_ m
  all_goals
    unfold Nearest
    obtain ⟨rfl, hle⟩ | ⟨rfl, hle⟩ := hp
  · exact ⟨le_rfl, fun _ => .inl rfl⟩
  · rw [habs, habs']
    exact ⟨hle, fun he => .inr (heven he.symm)⟩
  · rw [habs, habs']
    exact ⟨hle, fun he => .inr (heven he)⟩
  · exact ⟨le_rfl, fun _ => .inl rfl⟩

end

/-! ### The rounded pattern -/

/-- What `divRoundEven` picks: the quotient or the next number, by the remainder, the even one on a tie. -/
theorem divRoundEven_cases (n d : Nat) :
    ((divRoundEven n d = n / d ∧ 2 * (n % d) ≤ d) ∨ (divRoundEven n d = n / d + 1 ∧ d ≤ 2 * (n % d))) ∧
      (2 * (n % d) = d → divRoundEven n d % 2 = 0) := by
  simp only [divRoundEven]
  split_ifs <;> omega

/-- The significand kept has 24 bits, its top bit set where bits were dropped. -/
theorem significand_bounds (u : Nat) :
    u / 2 ^ excessBits u < 2 ^ 24 ∧ (excessBits u = 0 ∨ 2 ^ 23 ≤ u / 2 ^ excessBits u) := by
  constructor
  · rw [Nat.div_lt_iff_lt_mul (Nat.two_pow_pos _), ← pow_add]
    exact Nat.lt_log2_self.trans_le (Nat.pow_le_pow_right (by decide) (by unfold excessBits; omega))
  · refine Nat.eq_zero_or_pos (excessBits u) |>.imp_right fun hpos => ?_
    rw [Nat.le_div_iff_mul_le (Nat.two_pow_pos _), ← pow_add]
    unfold excessBits at hpos ⊢
    rw [show 23 + (u.log2 - 23) = u.log2 by omega]
    exact Nat.log2_self_le (by rintro rfl; simp at hpos)

section
variable {n den k : Nat}

/-- With `k` bits dropped, the pattern of the quotient and the next one enclose `n / den` units, at the distances that the
remainder tells. -/
theorem quotient_gaps (hden : 0 < den) (hlt : n / (den * 2 ^ k) < 2 ^ 24) (hnorm : k = 0 ∨ 2 ^ 23 ≤ n / (den * 2 ^ k)) :
    (n / den : ℚ) - unitsOfPattern (k * 2 ^ 23 + n / (den * 2 ^ k)) = (n % (den * 2 ^ k) : ℕ) / den ∧
      (unitsOfPattern (k * 2 ^ 23 + n / (den * 2 ^ k) + 1) : ℚ) - n / den =
        ((den * 2 ^ k : ℕ) - (n % (den * 2 ^ k) : ℕ)) / den := by
  have hdenQ : (den : ℚ) ≠ 0 := Nat.cast_ne_zero.2 hden.ne'
  have hn : (n : ℚ) = (den * 2 ^ k : ℕ) * (n / (den * 2 ^ k) : ℕ) + (n % (den * 2 ^ k) : ℕ) := by
    exact_mod_cast (Nat.div_add_mod n (den * 2 ^ k)).symm
  rw [Nat.add_assoc, unitsOfPattern_of_significand hlt.le hnorm,
    unitsOfPattern_of_significand (Nat.succ_le_of_lt hlt) (hnorm.imp_right Nat.le_succ_of_le)]
  generalize n / (den * 2 ^ k) = q at hn
  generalize n % (den * 2 ^ k) = r at hn
  rw [hn]
  constructor <;>
    · push_cast
      field_simp
      ring

theorem nearest_divRoundEven (hden : 0 < den) (hlt : n / (den * 2 ^ k) < 2 ^ 24)
    (hnorm : k = 0 ∨ 2 ^ 23 ≤ n / (den * 2 ^ k)) (m : Nat) :
    Nearest unitsOfPattern (n / den) (k * 2 ^ 23 + divRoundEven n (den * 2 ^ k)) m := by
  have hdenQ : (0 : ℚ) < den := Nat.cast_pos.2 hden
  obtain ⟨hlow, hhigh⟩ := quotient_gaps hden hlt hnorm
  obtain ⟨hpick, htie⟩ := divRoundEven_cases n (den * 2 ^ k)
  have hr : n % (den * 2 ^ k) < den * 2 ^ k := Nat.mod_lt n (Nat.mul_pos hden (Nat.two_pow_pos k))
  generalize den * 2 ^ k = d at *
  generalize n % d = r at *
  have hrQ : (r : ℚ) < d := Nat.cast_lt.2 hr
  have hlow0 : (0 : ℚ) ≤ r / den := by positivity
  have hhigh0 : (0 : ℚ) ≤ (d - r) / den := div_nonneg (by linarith) hdenQ.le
  refine nearest_of_nearer_neighbour strictMono_unitsOfPattern (sub_nonneg.1 (hlow ▸ hlow0))
    (sub_nonneg.1 (hhigh ▸ hhigh0)) ?_ ?_ m
  · rw [hlow, hhigh, div_le_div_iff_of_pos_right hdenQ, div_le_div_iff_of_pos_right hdenQ]
    refine hpick.imp ?_ ?_
    · rintro ⟨hd, hle⟩
      have hleQ : (2 * r : ℚ) ≤ d := by exact_mod_cast hle
      exact ⟨by rw [hd], by linarith⟩
    · rintro ⟨hd, hle⟩
      have hleQ : (d : ℚ) ≤ 2 * r := by exact_mod_cast hle
      exact ⟨by rw [hd, Nat.add_assoc], by linarith⟩
  · rw [hlow, hhigh, div_left_inj' hdenQ.ne']
    intro he
    have htieQ : (2 * r : ℚ) = d := by linarith
    have heven := htie (by exact_mod_cast htieQ)
    omega

end

/-- The pattern nearest to `n / den` units, before it is cut off at infinity. -/
def roundedPattern (n den : Nat) : Nat :=
  excessBits (n / den) * 2 ^ 23 + divRoundEven n (den * 2 ^ excessBits (n / den))

theorem nearestPattern_eq (num den : Nat) :
    nearestPattern num den = min (roundedPattern (num * 2 ^ 149) den) 0x7F800000 := rfl

theorem nearest_roundedPattern (n : Nat) {den : Nat} (hden : 0 < den) (m : Nat) :
    Nearest unitsOfPattern (n / den) (roundedPattern n den) m := by
  obtain ⟨hlt, hnorm⟩ := significand_bounds (n / den)
  rw [Nat.div_div_eq_div_mul] at hlt hnorm
  exact nearest_divRoundEven hden hlt hnorm m

/-! ### The field of a decimal literal is the nearest -/

theorem isFinite_iff (v : Word) : IsFinite v ↔ patternOf v / 2 ^ 23 ≠ 255 := by
  rw [← expField_eq]
  exact not_congr BitVec.toNat_inj.symm

theorem patternOf_field_decimal (neg : Bool) (digits scale : Nat) :
    patternOf (F32Literal.field (.decimal neg digits scale)) = nearestPattern digits (10 ^ scale) := by
  have hlt := nearestPattern_lt digits (10 ^ scale)
  rw [patternOf, toNat_field_decimal]
  cases neg
  · simp only [Bool.false_eq_true, if_false]
    omega
  · simp only [if_true]
    omega

/-- A finite field was not cut off at infinity. -/
theorem patternOf_field_of_isFinite {neg : Bool} {digits scale : Nat}
    (h : IsFinite (F32Literal.field (.decimal neg digits scale))) :
    patternOf (F32Literal.field (.decimal neg digits scale)) = roundedPattern (digits * 2 ^ 149) (10 ^ scale) := by
  rw [isFinite_iff] at h
  rw [patternOf_field_decimal, nearestPattern_eq] at h ⊢
  generalize roundedPattern (digits * 2 ^ 149) (10 ^ scale) = p at *
  refine min_eq_left (le_of_not_ge fun hge => h ?_)
  simp [min_eq_right hge]

theorem eq_of_sign_of_patternOf {v w : Word} (hs : v.getLsbD 31 = w.getLsbD 31) (hp : patternOf v = patternOf w) :
    v = w := by
  rw [getLsbD_31_eq, getLsbD_31_eq, decide_eq_decide] at hs
  unfold patternOf at hp
  apply BitVec.eq_of_toNat_eq
  omega

theorem getLsbD_0_eq (v : Word) : v.getLsbD 0 = decide (patternOf v % 2 = 1) := by
  rw [patternOf, Nat.mod_mod_of_dvd _ (by decide)]
  exact Nat.testBit_zero v.toNat

/-- The distance of a finite field from a decimal number of its sign is that of their magnitudes, in units. -/
theorem abs_valQ_sub {v : Word} {neg : Bool} (hv : v.getLsbD 31 = neg) (digits scale : Nat) :
    |valQ v - (if neg then -1 else 1) * (digits : ℚ) / 10 ^ scale| =
      |(unitsOfPattern (patternOf v) : ℚ) - (digits * 2 ^ 149 : ℕ) / (10 ^ scale : ℕ)| * 2 ^ (-149 : ℤ) := by
  have hsign : ((-1 : ℚ)) ^ neg.toNat = if neg then -1 else 1 := by cases neg <;> simp
  have habs : |(if neg then -1 else 1 : ℚ)| = 1 := by cases neg <;> simp
  have hunit : ((digits * 2 ^ 149 : ℕ) : ℚ) * 2 ^ (-149 : ℤ) = digits := by
    rw [Nat.cast_mul, Nat.cast_pow, Nat.cast_ofNat, mul_assoc, ← zpow_natCast, ← zpow_add₀ two_ne_zero]
    simp
  have hunits : (unitsOfPattern (patternOf v) : ℚ) * 2 ^ (-149 : ℤ) - digits / 10 ^ scale =
      (unitsOfPattern (patternOf v) - (digits * 2 ^ 149 : ℕ) / (10 ^ scale : ℕ)) * 2 ^ (-149 : ℤ) := by
    rw [sub_mul, div_mul_eq_mul_div, hunit, Nat.cast_pow, Nat.cast_ofNat]
  rw [valQ_eq, hv, hsign, magnitude_eq, mul_div_assoc, ← mul_sub, abs_mul, habs, one_mul, hunits, abs_mul,
    abs_of_pos (zpow_pos two_pos (-149) : (0 : ℚ) < 2 ^ (-149 : ℤ))]

/-- Settles O53: the field and `v` are patterns of one sign, and of all patterns the rounded one is `Nearest`. -/
theorem decimalLiteralsRoundToNearest : Obligations.DecimalLiteralsRoundToNearest := by
  intro neg digits scale hfin v _ hsign
  have hfield := getLsbD_31_field_decimal neg digits scale
  have hpattern := patternOf_field_of_isFinite hfin
  have hden : 0 < 10 ^ scale := Nat.pow_pos (by decide)
  obtain ⟨hle, htie⟩ := nearest_roundedPattern (digits * 2 ^ 149) hden (patternOf v)
  have hunit : (0 : ℚ) < 2 ^ (-149 : ℤ) := zpow_pos two_pos _
  rw [abs_valQ_sub hfield, abs_valQ_sub hsign, hpattern]
  refine ⟨mul_le_mul_of_nonneg_right hle hunit.le, fun heq => ?_⟩
  refine (htie (mul_right_cancel₀ hunit.ne' heq)).imp (fun hv => ?_) fun heven => ?_
  · exact eq_of_sign_of_patternOf (hsign.trans hfield.symm) (hv.trans hpattern.symm)
  · rw [getLsbD_0_eq, hpattern, heven]
    rfl

end Sys2Proof.Machine
end

section
/-! PROOFS. The statements of 40_generator.md about ranks. The loop of R102 writes one base-4 digit of the rank for each
bit of the coordinates, the highest bit first; so the rank of the next power is the digit of the new bit plus 4 times the
rank, and the facts about ranks are inductions on the power. -/

namespace Sys2Proof.Machine

/-! ### The rank, digit by digit (R102) -/

/-- The base-4 digit of the rank that the loop writes for bit `m` of the coordinates. -/
def rankDigit (m i j : Nat) : Nat := (j.testBit m).toNat + 2 * ((i ^^^ j).testBit m).toNat

theorem rankDigit_lt (m i j : Nat) : rankDigit m i j < 4 := by
  have hj := Bool.toNat_lt (j.testBit m)
  have ha := Bool.toNat_lt ((i ^^^ j).testBit m)
  unfold rankDigit
  omega

/-- The bits that one iteration of the loop writes stand above those written before. -/
theorem or_shiftLeft_pair {r bit : Nat} (h : r < 2 ^ bit) (x y : Bool) :
    r ||| x.toNat <<< bit ||| y.toNat <<< (bit + 1) = r + 2 ^ bit * (x.toNat + 2 * y.toNat) := by
  have hlow : x.toNat <<< bit + r < 2 ^ (bit + 1) := by
    rw [Nat.shiftLeft_eq, pow_succ]
    cases x <;> simp <;> omega
  rw [Nat.or_comm r, ← Nat.shiftLeft_add_eq_or_of_lt h, Nat.or_comm, ← Nat.shiftLeft_add_eq_or_of_lt hlow,
    Nat.shiftLeft_eq, Nat.shiftLeft_eq]
  ring

theorem add_pair_lt {r bit : Nat} (h : r < 2 ^ bit) (x y : Bool) :
    r + 2 ^ bit * (x.toNat + 2 * y.toNat) < 2 ^ (bit + 2) := by
  have hx := Bool.toNat_lt x
  have hy := Bool.toNat_lt y
  have hpair : 2 ^ bit * (x.toNat + 2 * y.toNat) ≤ 2 ^ bit * 3 := Nat.mul_le_mul_left _ (by omega)
  rw [pow_add]
  omega

/-- What the loop has written so far stays; the rest of the loop counts in units of the next free position. -/
theorem rankLoop_eq (a j m : Nat) {bit r : Nat} (h : r < 2 ^ bit) :
    rankLoop a j m bit r = r + 2 ^ bit * rankLoop a j m 0 0 := by
  induction m generalizing bit r with
  | zero => simp [rankLoop]
  | succ m ih =>
    rw [rankLoop, or_shiftLeft_pair h, ih (add_pair_lt h _ _), rankLoop, or_shiftLeft_pair Nat.zero_lt_one,
      ih (add_pair_lt Nat.zero_lt_one _ _)]
    ring

@[simp] theorem rank_zero (i j : Nat) : rank 0 i j = 0 := rfl

/-- The highest bits of the coordinates give the lowest digit of the rank. -/
theorem rank_succ (p i j : Nat) : rank (p + 1) i j = rankDigit p i j + 4 * rank p i j := by
  rw [rank, rankLoop, or_shiftLeft_pair Nat.zero_lt_one, rankLoop_eq _ _ _ (add_pair_lt Nat.zero_lt_one _ _)]
  simp [rank, rankDigit]

theorem rank_lt (p i j : Nat) : rank p i j < 4 ^ p := by
  induction p with
  | zero => simp
  | succ p ih =>
    have hdigit := rankDigit_lt p i j
    rw [rank_succ, pow_succ]
    omega

theorem rankDigit_congr {m n i i' j j' : Nat} (hi : i.testBit m = i'.testBit n) (hj : j.testBit m = j'.testBit n) :
    rankDigit m i j = rankDigit n i' j' := by
  rw [rankDigit, rankDigit, Nat.testBit_xor, Nat.testBit_xor, hi, hj]

/-- The rank of power `p` reads the low `p` bits of the coordinates. -/
theorem rank_congr {p i i' j j' : Nat} (hi : ∀ m < p, i.testBit m = i'.testBit m)
    (hj : ∀ m < p, j.testBit m = j'.testBit m) : rank p i j = rank p i' j' := by
  induction p with
  | zero => rfl
  | succ p ih =>
    rw [rank_succ, rank_succ, rankDigit_congr (hi p p.lt_succ_self) (hj p p.lt_succ_self),
      ih (fun m hm => hi m (Nat.lt_succ_of_lt hm)) fun m hm => hj m (Nat.lt_succ_of_lt hm)]

theorem rank_mod (p i j : Nat) : rank p (i % 2 ^ p) (j % 2 ^ p) = rank p i j :=
  rank_congr (fun m hm => by simp [Nat.testBit_mod_two_pow, hm]) fun m hm => by simp [Nat.testBit_mod_two_pow, hm]

/-! ### The closed form and the range (R103, R104) -/

theorem testBit_digit_add_zero (m i j n : Nat) : (rankDigit m i j + 4 * n).testBit 0 = j.testBit m := by
  have hmod : (rankDigit m i j + 4 * n) % 2 = (j.testBit m).toNat := by
    have hj := Bool.toNat_lt (j.testBit m)
    unfold rankDigit
    omega
  rw [Nat.testBit_zero, hmod]
  cases j.testBit m <;> rfl

theorem testBit_digit_add_one (m i j n : Nat) :
    (rankDigit m i j + 4 * n).testBit 1 = (i.testBit m ^^ j.testBit m) := by
  have hmod : (rankDigit m i j + 4 * n) / 2 % 2 = ((i ^^^ j).testBit m).toNat := by
    have hj := Bool.toNat_lt (j.testBit m)
    have ha := Bool.toNat_lt ((i ^^^ j).testBit m)
    unfold rankDigit
    omega
  rw [Nat.testBit_succ, Nat.testBit_zero, hmod, Nat.testBit_xor]
  cases i.testBit m ^^ j.testBit m <;> rfl

theorem testBit_digit_add_add_two (m i j n k : Nat) : (rankDigit m i j + 4 * n).testBit (k + 2) = n.testBit k := by
  have hdiv : (rankDigit m i j + 4 * n) / 2 / 2 = n := by
    have hdigit := rankDigit_lt m i j
    omega
  rw [Nat.testBit_succ, Nat.testBit_succ, hdiv]

/-- Where the bits of the coordinates stand in the rank (R103, first form). -/
theorem testBit_rank {p k : Nat} (hk : k < p) (i j : Nat) :
    (rank p i j).testBit (2 * k) = j.testBit (p - 1 - k) ∧
      (rank p i j).testBit (2 * k + 1) = (i.testBit (p - 1 - k) ^^ j.testBit (p - 1 - k)) := by
  induction p generalizing k with
  | zero => exact absurd hk (Nat.not_lt_zero k)
  | succ p ih =>
    rw [rank_succ]
    cases k with
    | zero => exact ⟨testBit_digit_add_zero p i j _, testBit_digit_add_one p i j _⟩
    | succ k =>
      have hbit : p + 1 - 1 - (k + 1) = p - 1 - k := by omega
      rw [hbit]
      exact (ih (Nat.lt_of_succ_lt_succ hk)).imp (testBit_digit_add_add_two p i j _ (2 * k)).trans
        (testBit_digit_add_add_two p i j _ (2 * k + 1)).trans

theorem rank_eq_rankSum (p i j : Nat) : rank p i j = rankSum p i j := by
  induction p with
  | zero => simp [rankSum]
  | succ p ih =>
    have hbit (k : Nat) : p + 1 - 1 - (k + 1) = p - 1 - k := by omega
    rw [rank_succ, ih, rankSum, rankSum, Finset.sum_range_succ', Finset.mul_sum, Nat.add_comm]
    congr 1
    · refine Finset.sum_congr rfl fun k _ => ?_
      rw [hbit]
      ring
    · simp only [Nat.add_sub_cancel, Nat.sub_zero, pow_zero, mul_one, rankDigit, Nat.mul_comm]

/-- Settles O9: both forms are inductions on the power. -/
theorem rankHasClosedForm : Obligations.RankHasClosedForm :=
  fun p i j => ⟨fun _ hk => testBit_rank hk i j, rank_eq_rankSum p i j⟩

theorem rank_zero_zero (p : Nat) : rank p 0 0 = 0 := by
  induction p with
  | zero => rfl
  | succ p ih => simp [rank_succ, ih, rankDigit]

/-- A row of zeros and a column of ones make every digit 3. -/
theorem rank_of_ones {p i j : Nat} (hi : ∀ m < p, i.testBit m = false) (hj : ∀ m < p, j.testBit m = true) :
    rank p i j = 4 ^ p - 1 := by
  induction p with
  | zero => rfl
  | succ p ih =>
    have hdigit : rankDigit p i j = 3 := by simp [rankDigit, hi p p.lt_succ_self, hj p p.lt_succ_self]
    have hpos : 0 < 4 ^ p := Nat.pow_pos (by decide)
    rw [rank_succ, hdigit, ih (fun m hm => hi m (Nat.lt_succ_of_lt hm)) fun m hm => hj m (Nat.lt_succ_of_lt hm), pow_succ]
    omega

theorem two_pow_two_mul (p : Nat) : 2 ^ (2 * p) = 4 ^ p := pow_mul 2 2 p

/-- Settles O10: every digit is at most 3, all are 0 at (0, 0), and all are 3 in row 0 of the last column. -/
theorem rankRangeIsFull : Obligations.RankRangeIsFull := by
  intro p i j
  rw [two_pow_two_mul]
  exact ⟨Nat.le_sub_one_of_lt (rank_lt p i j), rank_zero_zero p,
    rank_of_ones (fun m _ => Nat.zero_testBit m) fun m hm => by simp [Nat.testBit_two_pow_sub_one, hm]⟩

/-! ### Tiling (R113) -/

/-- Inside the next matrix the highest bits are the quarter, and their digit is its entry of the 2 by 2 pattern. -/
theorem rankDigit_eq_basePattern {p i j : Nat} (hi : i < 2 ^ (p + 1)) (hj : j < 2 ^ (p + 1)) :
    rankDigit p i j = basePattern (i / 2 ^ p) (j / 2 ^ p) := by
  have hdigit : ∀ ih < 2, ∀ jh < 2, rankDigit 0 ih jh = basePattern ih jh := by decide
  have hhigh {x : Nat} (hx : x < 2 ^ (p + 1)) : x / 2 ^ p < 2 := Nat.div_lt_of_lt_mul hx
  rw [← hdigit _ (hhigh hi) _ (hhigh hj)]
  exact rankDigit_congr (by rw [Nat.testBit_div_two_pow, Nat.zero_add]) (by rw [Nat.testBit_div_two_pow, Nat.zero_add])

theorem rank_succ_eq_tiled {p i j : Nat} (hi : i < 2 ^ (p + 1)) (hj : j < 2 ^ (p + 1)) :
    rank (p + 1) i j = 4 * rank p (i % 2 ^ p) (j % 2 ^ p) + basePattern (i / 2 ^ p) (j / 2 ^ p) := by
  rw [rank_succ, rank_mod, rankDigit_eq_basePattern hi hj, Nat.add_comm]

/-! A number in digits of base `2^p`: coordinates from quarter and place, and the index of a cell in a table. -/

theorem high_add_low_lt {n p hi lo : Nat} (hhi : hi < n) (hlo : lo < 2 ^ p) : hi * 2 ^ p + lo < n * 2 ^ p :=
  calc hi * 2 ^ p + lo < hi * 2 ^ p + 2 ^ p := Nat.add_lt_add_left hlo _
    _ = (hi + 1) * 2 ^ p := (Nat.succ_mul hi _).symm
    _ ≤ n * 2 ^ p := Nat.mul_le_mul_right _ hhi

theorem high_add_low_div {p lo : Nat} (hi : Nat) (hlo : lo < 2 ^ p) : (hi * 2 ^ p + lo) / 2 ^ p = hi := by
  rw [Nat.mul_comm, Nat.mul_add_div (Nat.two_pow_pos p), Nat.div_eq_of_lt hlo, Nat.add_zero]

theorem high_add_low_mod {p lo : Nat} (hi : Nat) (hlo : lo < 2 ^ p) : (hi * 2 ^ p + lo) % 2 ^ p = lo := by
  rw [Nat.mul_add_mod_self_right, Nat.mod_eq_of_lt hlo]

theorem quarter_lt {p ih il : Nat} (hih : ih < 2) (hil : il < 2 ^ p) : ih * 2 ^ p + il < 2 ^ (p + 1) := by
  rw [pow_succ']
  exact high_add_low_lt hih hil

theorem rank_quarter {p ih jh il jl : Nat} (hih : ih < 2) (hjh : jh < 2) (hil : il < 2 ^ p) (hjl : jl < 2 ^ p) :
    rank (p + 1) (ih * 2 ^ p + il) (jh * 2 ^ p + jl) = 4 * rank p il jl + basePattern ih jh := by
  rw [rank_succ_eq_tiled (quarter_lt hih hil) (quarter_lt hjh hjl), high_add_low_div ih hil, high_add_low_div jh hjl,
    high_add_low_mod ih hil, high_add_low_mod jh hjl]

theorem rankTiled_eq_rank {p i j : Nat} (hi : i < 2 ^ p) (hj : j < 2 ^ p) : rankTiled p i j = rank p i j := by
  induction p generalizing i j with
  | zero => rfl
  | succ p ih =>
    rw [rankTiled, rank_succ_eq_tiled hi hj, ih (Nat.mod_lt _ (Nat.two_pow_pos p)) (Nat.mod_lt _ (Nat.two_pow_pos p))]

/-- Settles O11: `rank_quarter`, and with it the tiled construction by induction on the power. -/
theorem rankIsTiledRecursively : Obligations.RankIsTiledRecursively :=
  ⟨by decide, by decide, fun _ _ _ _ _ => rank_quarter, fun _ _ _ => rankTiled_eq_rank⟩

/-! ### The ranks are a permutation (R107, R108) -/

theorem eq_of_testBit_below {p x y : Nat} (hx : x < 2 ^ p) (hy : y < 2 ^ p)
    (h : ∀ m < p, x.testBit m = y.testBit m) : x = y := by
  rw [← Nat.mod_eq_of_lt hx, ← Nat.mod_eq_of_lt hy]
  refine Nat.eq_of_testBit_eq fun m => ?_
  rw [Nat.testBit_mod_two_pow, Nat.testBit_mod_two_pow]
  by_cases hm : m < p
  · rw [h m hm]
  · simp [hm]

/-- The bits of the rank give back those of the column, and with them those of the row. -/
theorem testBit_eq_of_rank_eq {p i i' j j' : Nat} (h : rank p i j = rank p i' j') {m : Nat} (hm : m < p) :
    i.testBit m = i'.testBit m ∧ j.testBit m = j'.testBit m := by
  have hk : p - 1 - m < p := by omega
  have hbit : p - 1 - (p - 1 - m) = m := by omega
  obtain ⟨hcol, hxor⟩ := testBit_rank hk i j
  obtain ⟨hcol', hxor'⟩ := testBit_rank hk i' j'
  rw [h, hcol', hbit] at hcol
  rw [h, hxor', hbit, hcol] at hxor
  exact ⟨(Bool.xor_left_inj.1 hxor).symm, hcol.symm⟩

theorem exists_rank_eq {p r : Nat} (hr : r < 4 ^ p) : ∃ i j, i < 2 ^ p ∧ j < 2 ^ p ∧ rank p i j = r := by
  induction p generalizing r with
  | zero =>
    obtain rfl : r = 0 := by simpa using hr
    exact ⟨0, 0, Nat.two_pow_pos 0, Nat.two_pow_pos 0, rfl⟩
  | succ p ih =>
    have hpattern : ∀ b < 4, ∃ ih < 2, ∃ jh < 2, basePattern ih jh = b := by decide
    obtain ⟨ih', hih, jh, hjh, hlow⟩ := hpattern (r % 4) (Nat.mod_lt r (by decide))
    obtain ⟨il, jl, hil, hjl, hrank⟩ := ih (r := r / 4) (by rw [pow_succ] at hr; omega)
    refine ⟨_, _, quarter_lt hih hil, quarter_lt hjh hjl, ?_⟩
    rw [rank_quarter hih hjh hil hjl, hrank, hlow, Nat.div_add_mod]

theorem bijOn_rank (p : Nat) :
    Set.BijOn (fun c : ℕ × ℕ => rank p c.1 c.2) {c | c.1 < 2 ^ p ∧ c.2 < 2 ^ p} {r | r < 2 ^ (2 * p)} := by
  rw [two_pow_two_mul]
  refine ⟨fun c _ => rank_lt p c.1 c.2, ?inj, ?surj⟩
  case inj =>
    rintro ⟨i, j⟩ ⟨hi, hj⟩ ⟨i', j'⟩ ⟨hi', hj'⟩ h
    exact Prod.ext (eq_of_testBit_below hi hi' fun m hm => (testBit_eq_of_rank_eq h hm).1)
      (eq_of_testBit_below hj hj' fun m hm => (testBit_eq_of_rank_eq h hm).2)
  case surj =>
    intro r hr
    obtain ⟨i, j, hi, hj, hrank⟩ := exists_rank_eq hr
    exact ⟨(i, j), ⟨hi, hj⟩, hrank⟩

/-- A leading zero in both coordinates shifts the rank by one digit. -/
theorem rank_succ_of_lt {p i j : Nat} (hi : i < 2 ^ p) (hj : j < 2 ^ p) : rank (p + 1) i j = 4 * rank p i j := by
  rw [rank_succ, rankDigit, Nat.testBit_xor, Nat.testBit_lt_two_pow hi, Nat.testBit_lt_two_pow hj]
  exact Nat.zero_add _

/-- The cells of the 2 by 2 corner have the pattern's ranks, each shifted to the highest digit. -/
theorem rank_corner (q : Nat) {i j : Nat} (hi : i < 2) (hj : j < 2) : rank (q + 1) i j = basePattern i j * 4 ^ q := by
  induction q with
  | zero => simpa using rank_quarter (p := 0) hi hj Nat.zero_lt_one Nat.zero_lt_one
  | succ q ih =>
    have hle : 2 ≤ 2 ^ (q + 1) := Nat.le_self_pow (Nat.succ_ne_zero q) 2
    rw [rank_succ_of_lt (hi.trans_le hle) (hj.trans_le hle), ih]
    ring

/-- Settles O13: `rank_corner` at the cells (0, 1) and (1, 0). -/
theorem matrixIsNeverSymmetric : Obligations.MatrixIsNeverSymmetric := by
  intro p hp
  obtain ⟨q, rfl⟩ := Nat.exists_eq_add_of_le' hp
  have hrow : rank (q + 1) 0 1 = 3 * 4 ^ q := rank_corner q (by decide) (by decide)
  have hcol : rank (q + 1) 1 0 = 2 * 4 ^ q := rank_corner q (by decide) (by decide)
  have hpos : 0 < 4 ^ q := Nat.pow_pos (by decide)
  exact ⟨hrow, hcol, by omega⟩

/-! ### The implementations (R109, R30) -/

/-- Left-aligned coordinates have the rank of the smaller power. -/
theorem rank_shiftLeft (d p i j : Nat) : rank (d + p) (i <<< d) (j <<< d) = rank p i j := by
  induction p with
  | zero =>
    have hzero (x m : Nat) (hm : m < d) : (x <<< d).testBit m = Nat.testBit 0 m := by
      simp [Nat.testBit_shiftLeft, Nat.not_le.2 hm]
    exact (rank_congr (hzero i) (hzero j)).trans (rank_zero_zero d)
  | succ p ih =>
    rw [← Nat.add_assoc, rank_succ, rank_succ, ih]
    congr 1
    exact rankDigit_congr (by simp [Nat.testBit_shiftLeft]) (by simp [Nat.testBit_shiftLeft])

theorem rankComb_eq_rank {p : Nat} (hp : p ≤ Config.PMAX) (i j : Nat) : rankComb p i j = rank p i j := by
  obtain ⟨d, hd⟩ := Nat.exists_eq_add_of_le' hp
  rw [rankComb, hd, Nat.add_sub_cancel, rank_shiftLeft]

/-- The table of `s^2` entries, row by row, has cell `(i, j)` at `i s + j`. -/
theorem lutRead_lutTable {p i j : Nat} (hi : i < 2 ^ p) (hj : j < 2 ^ p) :
    lutRead p (lutTable p) i j = some (rank p i j, thrBits (rank p i j) p) := by
  have hindex : i * 2 ^ p + j < 4 ^ p := (high_add_low_lt hi hj).trans_eq (Nat.mul_pow 2 2 p).symm
  simp [lutRead, lutTable, hindex, high_add_low_div i hj, high_add_low_mod i hj]

/-- Settles O14. -/
theorem implementationsFormTheSameCells : Obligations.ImplementationsFormTheSameCells := by
  intro impl p i j _ hp hi hj
  cases impl with
  | comb => rw [generate, rankComb_eq_rank hp]
  | lut => exact lutRead_lutTable hi hj

end Sys2Proof.Machine
end

section
/-! PROOFS. The rest of 40_generator.md: the threshold field is the exact quotient of the rank, so every threshold occurs
once, and SETLVL, TCELL and TSAMPLE do what R110 to R112 say. -/

namespace Sys2Proof.Machine

/-! ### The threshold field (R106) -/

theorem thrBits_zero (p : Nat) : thrBits 0 p = 0 := rfl

theorem exists_leading_bit {p r : Nat} (h0 : r ≠ 0) (hr : r < 4 ^ p) : ∃ e f, e < 2 * p ∧ f < 2 ^ e ∧ r = 2 ^ e + f := by
  rw [← two_pow_two_mul] at hr
  have hle := Nat.log2_self_le h0
  have hlt := Nat.lt_log2_self (n := r)
  rw [pow_succ] at hlt
  exact ⟨r.log2, r - 2 ^ r.log2, (Nat.log2_lt h0).2 hr, by omega, by omega⟩

/-- The field of a rank from its leading bit `2^e` and the rest. -/
theorem thrBits_leading_bit {e f : Nat} (hf : f < 2 ^ e) (p : Nat) :
    thrBits (2 ^ e + f) p =
      (0 : BitVec 1) ++ BitVec.ofNat 8 (127 + e - 2 * p) ++ BitVec.ofNat 23 (f * 2 ^ (23 - e)) := by
  have h0 : 2 ^ e + f ≠ 0 := by have := Nat.two_pow_pos e; omega
  have hlog : (2 ^ e + f).log2 = e := (Nat.log2_eq_iff h0).2 ⟨Nat.le_add_right _ _, by rw [pow_succ]; omega⟩
  simp only [thrBits, if_neg h0, hlog, Nat.add_sub_cancel_left, Nat.shiftLeft_eq]

/-- The three fields of a binary32 word with sign 0, exponent `E` and fraction `F`. -/
theorem packed_fields (E : BitVec 8) (F : BitVec 23) :
    ((0 : BitVec 1) ++ E ++ F).getLsbD 31 = false ∧ ((0 : BitVec 1) ++ E ++ F).extractLsb' 23 8 = E ∧
      ((0 : BitVec 1) ++ E ++ F).extractLsb' 0 23 = F := by
  refine ⟨?sign, ?exponent, BitVec.extractLsb'_append_eq_right⟩
  case sign =>
    rw [BitVec.getLsbD_append, if_neg (by decide), BitVec.getLsbD_append, if_neg (by decide)]
    rfl
  case exponent => exact (BitVec.extractLsb'_append_eq_of_le le_rfl).trans BitVec.extractLsb'_append_eq_right

theorem valQ_packed {E : BitVec 8} (hE : E ≠ 0) (F : BitVec 23) :
    valQ ((0 : BitVec 1) ++ E ++ F) = (1 + (F.toNat : ℚ) * 2 ^ (-23 : ℤ)) * 2 ^ ((E.toNat : ℤ) - 127) := by
  obtain ⟨hsign, hexp, hfrac⟩ := packed_fields E F
  rw [valQ, hsign, hexp, hfrac, if_neg hE, Bool.toNat_false, pow_zero, one_mul]

/-- The exponent field of the threshold of a nonzero rank does not wrap. -/
theorem toNat_thr_exponent {e p : Nat} (he : e < 2 * p) :
    (BitVec.ofNat 8 (127 + e - 2 * p)).toNat = 127 + e - 2 * p := by
  rw [BitVec.toNat_ofNat, Nat.mod_eq_of_lt (by omega)]

/-- The fraction field of the threshold holds every bit of the rank below the leading one. -/
theorem toNat_thr_fraction {e f : Nat} (he : e ≤ 23) (hf : f < 2 ^ e) :
    (BitVec.ofNat 23 (f * 2 ^ (23 - e))).toNat = f * 2 ^ (23 - e) := by
  refine (BitVec.toNat_ofNat _ _).trans (Nat.mod_eq_of_lt ?_)
  calc f * 2 ^ (23 - e) < 2 ^ e * 2 ^ (23 - e) := Nat.mul_lt_mul_of_pos_right hf (Nat.two_pow_pos _)
    _ = 2 ^ 23 := by rw [← pow_add, Nat.add_sub_cancel' he]

/-- The significand `1.F` times its power of two is the quotient, for a leading bit of weight at most `2^23`. -/
theorem significand_scaled {e : Nat} (he : e ≤ 23) (f p : Nat) :
    (1 + ((f * 2 ^ (23 - e) : ℕ) : ℚ) * 2 ^ (-23 : ℤ)) * 2 ^ ((e : ℤ) - (2 * p : ℕ)) = ((2 ^ e + f : ℕ) : ℚ) / 4 ^ p := by
  have hsplit : (2 : ℚ) ^ 23 = 2 ^ e * 2 ^ (23 - e) := by rw [← pow_add, Nat.add_sub_cancel' he]
  have hneg : (2 : ℚ) ^ (-23 : ℤ) = (2 ^ 23)⁻¹ := by rw [zpow_neg]; rfl
  have hfour : (2 : ℚ) ^ (2 * p) = 4 ^ p := by rw [pow_mul]; norm_num
  rw [hneg, hsplit, zpow_sub₀ two_ne_zero, zpow_natCast, zpow_natCast, hfour]
  push_cast
  field_simp

/-- A nonzero rank has a normal threshold field with the exact quotient (R106). -/
theorem thrBits_of_ne_zero {p r : Nat} (hp : p ≤ 12) (h0 : r ≠ 0) (hr : r < 4 ^ p) :
    (thrBits r p).getLsbD 31 = false ∧
      (103 ≤ ((thrBits r p).extractLsb' 23 8).toNat ∧ ((thrBits r p).extractLsb' 23 8).toNat ≤ 126) ∧
      valQ (thrBits r p) = (r : ℚ) / 4 ^ p := by
  obtain ⟨e, f, he, hf, rfl⟩ := exists_leading_bit h0 hr
  have hexp := toNat_thr_exponent he
  have hE : BitVec.ofNat 8 (127 + e - 2 * p) ≠ 0 := by
    rw [ne_eq, ← BitVec.toNat_inj, hexp]
    exact Nat.sub_ne_zero_of_lt (by omega)
  have hz : ((127 + e - 2 * p : ℕ) : ℤ) - 127 = (e : ℤ) - (2 * p : ℕ) := by omega
  rw [thrBits_leading_bit hf, valQ_packed hE, (packed_fields _ _).1, (packed_fields _ _).2.1, hexp,
    toNat_thr_fraction (by omega) hf, hz]
  exact ⟨rfl, by omega, significand_scaled (by omega) f p⟩

/-- The threshold field of a rank is the exact quotient (R106). -/
theorem isThreshold_thrBits {p r : Nat} (hp : p ≤ 12) (hr : r < 4 ^ p) : IsThreshold (thrBits r p) r p := by
  rcases eq_or_ne r 0 with rfl | h0
  · refine ⟨by rw [thrBits_zero]; rfl, by rw [thrBits_zero, IsFinite]; decide, ?_⟩
    simp [thrBits_zero, valQ]
  · obtain ⟨hsign, ⟨_, hexp⟩, hval⟩ := thrBits_of_ne_zero hp h0 hr
    refine ⟨hsign, fun h => ?_, hval⟩
    rw [h] at hexp
    exact absurd hexp (by decide)

theorem valQ_thrBits {p r : Nat} (hp : p ≤ 12) (hr : r < 4 ^ p) : valQ (thrBits r p) = (r : ℚ) / 4 ^ p :=
  (isThreshold_thrBits hp hr).2.2

/-- Settles O15: the field is exact, and a rank below `4^p` makes the quotient less than 1. -/
theorem thresholdBitsAreExact : Obligations.ThresholdBitsAreExact := by
  intro p r _ hp hr
  rw [two_pow_two_mul] at hr
  have hval := valQ_thrBits hp hr
  have hpos : (0 : ℚ) < 4 ^ p := pow_pos (by norm_num) p
  have hlt : (r : ℚ) < 4 ^ p := by exact_mod_cast hr
  refine ⟨isThreshold_thrBits hp hr, ?nonneg, ?below, ?zero, fun h0 => (thrBits_of_ne_zero hp h0 hr).2.1⟩
  case nonneg => rw [hval]; positivity
  case below => rw [hval]; exact (div_lt_one hpos).2 hlt
  case zero => rintro rfl; exact thrBits_zero p

/-- A cell has the threshold `k / s^2` when its rank is `k`. -/
theorem valQ_thrBits_rank_iff {p : Nat} (hp : p ≤ 12) (i j k : Nat) :
    valQ (thrBits (rank p i j) p) = (k : ℚ) / (2 ^ p) ^ 2 ↔ rank p i j = k := by
  have hpow : ((2 : ℚ) ^ p) ^ 2 = 4 ^ p := by rw [pow_right_comm]; norm_num
  have hne : (4 : ℚ) ^ p ≠ 0 := pow_ne_zero p (by norm_num)
  rw [valQ_thrBits hp (rank_lt p i j), hpow, div_left_inj' hne, Nat.cast_inj]

/-- Settles O12: the ranks are a bijection, and a cell's threshold is `k / s^2` when its rank is `k`. -/
theorem ranksAreAPermutation : Obligations.RanksAreAPermutation := by
  refine ⟨bijOn_rank, fun p k _ hp hk => ?_⟩
  obtain ⟨c, hc, hrank⟩ := (bijOn_rank p).surjOn hk
  refine ⟨c, ⟨hc, (valQ_thrBits_rank_iff hp _ _ k).2 hrank⟩, fun c' ⟨hc', hval⟩ => ?_⟩
  exact (bijOn_rank p).injOn hc' hc (((valQ_thrBits_rank_iff hp _ _ k).1 hval).trans hrank.symm)

/-! ### The commands (R105, R110 to R112) -/

theorem power_eq_mapPower (s : State) : s.power = mapPower s := rfl

theorem outside_iff (s : State) (coord : Word) : s.outside coord = true ↔ 2 ^ mapPower s ≤ coord.toNat :=
  decide_eq_true_iff

theorem wrap_of_lt {p : Nat} {coord : Word} (h : coord.toNat < 2 ^ p) : wrap p coord = coord.toNat := Nat.mod_eq_of_lt h

/-- Adding the side to a coordinate, without a carry out of the word, stays on the cell. -/
theorem wrap_add_side {p : Nat} {coord : Word} (h : coord.toNat + 2 ^ p < 2 ^ 32) :
    wrap p (coord + BitVec.ofNat 32 (2 ^ p)) = wrap p coord := by
  have hside : 2 ^ p < 2 ^ 32 := (Nat.le_add_left _ _).trans_lt h
  rw [wrap, wrap, BitVec.toNat_add, BitVec.toNat_ofNat, Nat.mod_eq_of_lt hside, Nat.mod_eq_of_lt h, Nat.add_mod_right]

section
variable {s : State} {x y x' y' : Word}

theorem sampleRank_congr_of_wrap (hx : wrap s.power x = wrap s.power x') (hy : wrap s.power y = wrap s.power y') :
    s.sampleRank x y = s.sampleRank x' y' := by
  rw [State.sampleRank, State.sampleRank, hx, hy]

/-- TSAMPLE reads its coordinates only for the rank of the wrapped cell. -/
theorem execTsample_congr_of_sampleRank (h : s.sampleRank x y = s.sampleRank x' y') (tag : BitVec 8) :
    execTsample tag x y s = execTsample tag x' y' s := by
  rw [execTsample, execTsample, h]

/-- DITHER reads its coordinates only for the rank of the wrapped cell. -/
theorem execDither_congr_of_sampleRank (h : s.sampleRank x y = s.sampleRank x' y') (tag : BitVec 8) (lum : Word) :
    execDither tag x y lum s = execDither tag x' y' lum s := by
  rw [execDither, execDither, h]

end

/-- Settles O16: both commands read the coordinates through `wrap`, which does not see the side. -/
theorem samplingIsToroidal : Obligations.SamplingIsToroidal := by
  intro s tag x y lum
  refine ⟨fun hx => ?column, fun hy => ?row⟩
  case column =>
    have hrank := sampleRank_congr_of_wrap (s := s) (wrap_add_side hx) (rfl : wrap s.power y = _)
    exact ⟨execTsample_congr_of_sampleRank hrank tag, execDither_congr_of_sampleRank hrank tag lum⟩
  case row =>
    have hrank := sampleRank_congr_of_wrap (s := s) (rfl : wrap s.power x = _) (wrap_add_side hy)
    exact ⟨execTsample_congr_of_sampleRank hrank tag, execDither_congr_of_sampleRank hrank tag lum⟩

/-- A level up to 11 fits the four bits that SETLVL stores. -/
theorem toNat_levelOperand {level : Word} (h : level.toNat ≤ 11) : (levelOperand level).toNat = level.toNat := by
  rw [levelOperand, BitVec.extractLsb'_toNat, Nat.shiftRight_zero, Nat.mod_eq_of_lt (by omega)]

/-- Settles O17: the two branches of SETLVL. -/
theorem setlvlSetsLevelOrRaisesParam : Obligations.SetlvlSetsLevelOrRaisesParam := by
  intro s tag level
  refine ⟨fun hle => ⟨levelOperand level, toNat_levelOperand hle, ?fits⟩, fun hlt => ?tooLarge⟩
  case fits => exact execSetlvl_of_fits tag (decide_eq_false (Nat.not_lt.2 hle)) s
  case tooLarge => exact execSetlvl_of_tooLarge tag (decide_eq_true hlt) s

/-- The data words of a cell: the rank fits a word, and the threshold is its exact quotient. -/
theorem cell_words {p : Nat} (hp : p ≤ 12) (i j : Nat) :
    (BitVec.ofNat 32 (rank p i j)).toNat = rankSum p i j ∧
      IsThreshold (thrBits (rank p i j) p) (BitVec.ofNat 32 (rank p i j)).toNat p := by
  have hlt := rank_lt p i j
  have hfits : rank p i j < 2 ^ 32 := hlt.trans_le ((Nat.pow_le_pow_right (by decide) hp).trans (by decide : 4 ^ 12 ≤ _))
  rw [BitVec.toNat_ofNat, Nat.mod_eq_of_lt hfits]
  exact ⟨rank_eq_rankSum p i j, isThreshold_thrBits hp hlt⟩

theorem outside_or_eq_false {s : State} {i j : Word} (hi : i.toNat < 2 ^ mapPower s) (hj : j.toNat < 2 ^ mapPower s) :
    (s.outside i || s.outside j) = false := by
  rw [Bool.or_eq_false_iff, ← Bool.not_eq_true, ← Bool.not_eq_true, outside_iff, outside_iff]
  exact ⟨Nat.not_le.2 hi, Nat.not_le.2 hj⟩

/-- Settles O18: the three branches of TCELL, and `cell_words` for the one that answers. -/
theorem tcellReadsItsCell : Obligations.TcellReadsItsCell := by
  intro s tag row col hlevel
  refine ⟨fun hm hrow hcol => ?inside, fun hm hout => ?outside, fun hm => execTcell_of_noMap tag row col hm⟩
  case inside =>
    exact ⟨_, _, execTcell_of_inside tag hm (outside_or_eq_false hrow hcol), cell_words (Nat.succ_le_succ hlevel) _ _⟩
  case outside =>
    rw [← outside_iff, ← outside_iff, ← Bool.or_eq_true] at hout
    exact execTcell_of_outside tag hm hout

/-- Settles O19: the two branches of TSAMPLE, and `cell_words` for the one that answers. -/
theorem tsampleReadsTheWrappedCell : Obligations.TsampleReadsTheWrappedCell := by
  intro s tag x y hlevel
  exact ⟨fun hm => ⟨_, _, execTsample_of_map tag x y hm, cell_words (Nat.succ_le_succ hlevel) _ _⟩,
    fun hm => execTsample_of_noMap tag x y hm⟩

theorem sampleRank_of_inside {s : State} {x y : Word} (hx : x.toNat < 2 ^ mapPower s) (hy : y.toNat < 2 ^ mapPower s) :
    s.sampleRank x y = rank s.power y.toNat x.toNat := by
  rw [State.sampleRank, power_eq_mapPower, wrap_of_lt hx, wrap_of_lt hy]

/-- Settles O20: inside the matrix nothing wraps, so both commands read the same cell. -/
theorem tsampleIsTcellSwapped : Obligations.TsampleIsTcellSwapped := by
  intro s tag x y hm hx hy
  have hsample := execTsample_of_map tag x y hm
  rw [sampleRank_of_inside hx hy] at hsample
  exact ⟨_, _, hsample, execTcell_of_inside tag hm (outside_or_eq_false hy hx)⟩

end Sys2Proof.Machine
end

section
/-! PROOFS. The statements of 41_comparator.md: the comparator of R132 is the order of the values of R130, the comparators
of R137 decide alike, and TCMP and DITHER do what R135, R136, R138 and R139 say. -/

namespace Sys2Proof.Machine

/-! ### The three classes of a field (R130) -/

theorem isNaN32_iff (v : Word) : isNaN32 v = true ↔ IsNaN v := by
  have hexp : v.extractLsb' 23 8 = 255 ↔ expField v = 255 := BitVec.toNat_inj.symm
  have hfrac : v.extractLsb' 0 23 = 0 ↔ fracField v = 0 := BitVec.toNat_inj.symm
  rw [isNaN32, Bool.and_eq_true, beq_iff_eq, bne_iff_ne, IsNaN, ne_eq, ne_eq, hexp, hfrac]

theorem isNaN32_eq_false_iff (v : Word) : isNaN32 v = false ↔ ¬IsNaN v := by
  rw [← isNaN32_iff, Bool.not_eq_true]

theorem isFinite_iff_expField (v : Word) : IsFinite v ↔ expField v ≠ 255 := not_congr BitVec.toNat_inj.symm

theorem not_isNaN_of_isFinite {v : Word} (h : IsFinite v) : ¬IsNaN v := fun hnan => h hnan.1

/-- The value of a finite field in units of `2^(-149)`, with its sign. -/
def signedUnits (v : Word) : ℤ := if signBit v then -(magnitude v : ℤ) else magnitude v

theorem valQ_eq_signedUnits (v : Word) : valQ v = signedUnits v * 2 ^ (-149 : ℤ) := by
  rw [valQ_eq, signedUnits, signBit]
  cases v.getLsbD 31 with
  | false => simp
  | true => simp

theorem val32_of_isNaN {v : Word} (h : IsNaN v) : val32 v = .nan := if_pos ((isNaN32_iff v).2 h)

theorem val32_of_infinite {v : Word} (hnan : ¬IsNaN v) (hfin : ¬IsFinite v) : val32 v = .infinity (v.getLsbD 31) := by
  rw [isFinite_iff_expField, not_not] at hfin
  rw [val32, if_neg (mt (isNaN32_iff v).1 hnan), if_pos hfin, signBit]

theorem val32_of_isFinite {v : Word} (h : IsFinite v) : val32 v = .finite (signedUnits v) := by
  rw [val32, if_neg (mt (isNaN32_iff v).1 (not_isNaN_of_isFinite h)), if_neg ((isFinite_iff_expField v).1 h),
    signedUnits]

theorem val32_eq_nan_iff (v : Word) : val32 v = .nan ↔ IsNaN v := by
  refine ⟨fun h => ?_, val32_of_isNaN⟩
  by_contra hnan
  by_cases hfin : IsFinite v
  · rw [val32_of_isFinite hfin] at h; cases h
  · rw [val32_of_infinite hnan hfin] at h; cases h

/-- Settles O21: one class of field after the other. -/
theorem binaryValuesFollowTheFormula : Obligations.BinaryValuesFollowTheFormula :=
  fun v => ⟨val32_eq_nan_iff v, val32_of_infinite, fun h => ⟨_, val32_of_isFinite h, (valQ_eq_signedUnits v).symm⟩⟩

/-! ### The order of the values (R132, R133) -/

/-- A model value as an extended rational. NaN has none: the lemmas below leave it out. -/
def F32Value.toExtended : F32Value → WithBot (WithTop ℚ)
  | .nan => ⊥
  | .infinity true => ⊥
  | .infinity false => ((⊤ : WithTop ℚ) : WithBot (WithTop ℚ))
  | .finite units => (((units : ℚ) * 2 ^ (-149 : ℤ) : ℚ) : WithTop ℚ)

theorem F32Value.finite_ne_nan {units : ℤ} : F32Value.finite units ≠ .nan := nofun

theorem valX_of_isFinite {v : Word} (h : IsFinite v) : valX v = ((valQ v : WithTop ℚ) : WithBot (WithTop ℚ)) := if_neg h

theorem valX_of_not_isFinite {v : Word} (h : ¬IsFinite v) :
    valX v = if v.getLsbD 31 then ⊥ else ((⊤ : WithTop ℚ) : WithBot (WithTop ℚ)) := if_pos (not_not.1 h)

theorem toExtended_val32 {v : Word} (hnan : ¬IsNaN v) : (val32 v).toExtended = valX v := by
  by_cases hfin : IsFinite v
  · rw [val32_of_isFinite hfin, valX_of_isFinite hfin, valQ_eq_signedUnits, F32Value.toExtended]
  · rw [val32_of_infinite hnan hfin, valX_of_not_isFinite hfin]
    cases v.getLsbD 31 <;> rfl

/-- The model's order is that of the extended rationals: infinities lie outside all finite values, and a unit is
positive. -/
theorem gt_iff_toExtended_lt {a b : F32Value} (ha : a ≠ .nan) (hb : b ≠ .nan) :
    a.gt b = true ↔ b.toExtended < a.toExtended := by
  have hunit : (0 : ℚ) < 2 ^ (-149 : ℤ) := zpow_pos two_pos _
  cases a with
  | nan => exact absurd rfl ha
  | infinity n =>
    cases b with
    | nan => exact absurd rfl hb
    | infinity m => cases n <;> cases m <;> simp [F32Value.gt, F32Value.toExtended]
    | finite y =>
      cases n with
      | true => exact ⟨nofun, fun h => absurd h not_lt_bot⟩
      | false => exact ⟨fun _ => WithBot.coe_lt_coe.2 (WithTop.coe_lt_top _), fun _ => rfl⟩
  | finite x =>
    cases b with
    | nan => exact absurd rfl hb
    | infinity m =>
      cases m with
      | true => exact ⟨fun _ => WithBot.bot_lt_coe _, fun _ => rfl⟩
      | false => exact ⟨nofun, fun h => absurd (WithBot.coe_lt_coe.1 h) not_top_lt⟩
    | finite y =>
      rw [F32Value.gt, decide_eq_true_iff, F32Value.toExtended, F32Value.toExtended, WithBot.coe_lt_coe,
        WithTop.coe_lt_coe, mul_lt_mul_iff_left₀ hunit, Int.cast_lt]

theorem gt32_of_not_isNaN {l t : Word} (hl : ¬IsNaN l) (ht : ¬IsNaN t) : gt32 l t = (val32 l).gt (val32 t) := by
  rw [gt32, (isNaN32_eq_false_iff l).2 hl, (isNaN32_eq_false_iff t).2 ht]
  rfl

theorem gt32_of_isNaN {l t : Word} (h : IsNaN l ∨ IsNaN t) : gt32 l t = false := by
  rw [← isNaN32_iff, ← isNaN32_iff, ← Bool.or_eq_true] at h
  exact if_pos h

theorem gt32_iff_greater (l t : Word) : gt32 l t = true ↔ Greater l t := by
  by_cases hnan : IsNaN l ∨ IsNaN t
  · rw [gt32_of_isNaN hnan]
    refine ⟨nofun, fun ⟨hl, ht, _⟩ => ?_⟩
    exact absurd hnan (not_or.2 ⟨hl, ht⟩)
  · obtain ⟨hl, ht⟩ := not_or.1 hnan
    rw [gt32_of_not_isNaN hl ht, gt_iff_toExtended_lt (mt (val32_eq_nan_iff l).1 hl) (mt (val32_eq_nan_iff t).1 ht),
      toExtended_val32 hl, toExtended_val32 ht]
    exact ⟨fun h => ⟨hl, ht, h⟩, fun ⟨_, _, h⟩ => h⟩

/-- Settles O22: `gt32_iff_greater`. -/
theorem greaterThanIsTheExactOrder : Obligations.GreaterThanIsTheExactOrder := gt32_iff_greater

theorem toExtended_unitsOfOne :
    (F32Value.finite unitsOfOne).toExtended = (((1 : ℚ) : WithTop ℚ) : WithBot (WithTop ℚ)) := by
  have h : ((unitsOfOne : ℤ) : ℚ) * 2 ^ (-149 : ℤ) = 1 := by
    rw [unitsOfOne, Nat.cast_pow, Int.cast_pow, zpow_neg]
    exact mul_inv_cancel₀ (pow_ne_zero 149 two_ne_zero)
  rw [F32Value.toExtended, h]

theorem outOfRange_iff (l : Word) : outOfRange l = true ↔ OutsideUnit l := by
  by_cases hnan : IsNaN l
  · rw [outOfRange, (isNaN32_iff l).2 hnan]
    exact ⟨nofun, fun ⟨hl, _⟩ => absurd hnan hl⟩
  · have hval := mt (val32_eq_nan_iff l).1 hnan
    have hzero : (F32Value.finite 0).toExtended = (((0 : ℚ) : WithTop ℚ) : WithBot (WithTop ℚ)) := by
      simp [F32Value.toExtended]
    rw [outOfRange, (isNaN32_eq_false_iff l).2 hnan, Bool.not_false, Bool.true_and, Bool.or_eq_true,
      gt_iff_toExtended_lt F32Value.finite_ne_nan hval,
      gt_iff_toExtended_lt hval F32Value.finite_ne_nan, toExtended_val32 hnan, hzero, toExtended_unitsOfOne]
    exact ⟨fun h => ⟨hnan, h⟩, fun ⟨_, h⟩ => h⟩

/-- Settles O23: `isNaN32_iff` and `outOfRange_iff`. -/
theorem inputClassesAreThoseOfTheSpec : Obligations.InputClassesAreThoseOfTheSpec :=
  fun l => ⟨isNaN32_iff l, outOfRange_iff l⟩

/-! ### Ordered-integer keys (R137) -/

/-- The pattern of a field with the sign of its value: both zeros are 0. -/
def signedPattern (v : Word) : ℤ := if signBit v then -(patternOf v : ℤ) else patternOf v

theorem toNat_orderKey (v : Word) :
    (orderKey v).toNat = if signBit v then 2 ^ 31 - 1 - patternOf v else 2 ^ 31 + patternOf v := by
  have hlt := v.isLt
  rw [orderKey, signBit, getLsbD_31_eq, patternOf]
  by_cases h : 2 ^ 31 ≤ v.toNat
  · rw [decide_eq_true h, if_pos rfl, if_pos rfl, BitVec.toNat_not]
    omega
  · have hdiv : (v.toNat ^^^ 2 ^ 31) / 2 ^ 31 = 1 := by
      rw [Nat.xor_div_two_pow, Nat.div_eq_of_lt (Nat.lt_of_not_le h)]
      rfl
    have hmod : (v.toNat ^^^ 2 ^ 31) % 2 ^ 31 = v.toNat % 2 ^ 31 := by
      rw [Nat.xor_mod_two_pow, Nat.mod_self, Nat.xor_zero]
    rw [decide_eq_false h, if_neg Bool.false_ne_true, if_neg Bool.false_ne_true, BitVec.toNat_xor]
    change v.toNat ^^^ 2 ^ 31 = _
    omega

theorem isZero32_iff (v : Word) : isZero32 v = true ↔ patternOf v = 0 := by
  rw [isZero32, beq_iff_eq, ← BitVec.toNat_inj, BitVec.extractLsb'_toNat, Nat.shiftRight_zero, patternOf]
  rfl

/-- The keys compare as the signed patterns do, once the two zeros are set equal. -/
theorem orderKey_lt_iff (l t : Word) :
    (!(isZero32 l && isZero32 t) && decide ((orderKey t).toNat < (orderKey l).toNat)) = true ↔
      signedPattern t < signedPattern l := by
  have hl : patternOf l < 2 ^ 31 := Nat.mod_lt _ (by decide)
  have ht : patternOf t < 2 ^ 31 := Nat.mod_lt _ (by decide)
  rw [Bool.and_eq_true, Bool.not_eq_true', ← Bool.not_eq_true, Bool.and_eq_true, isZero32_iff, isZero32_iff,
    decide_eq_true_iff, toNat_orderKey, toNat_orderKey, signedPattern, signedPattern]
  split_ifs <;> omega

theorem signedUnits_lt_iff (l t : Word) : signedUnits t < signedUnits l ↔ signedPattern t < signedPattern l := by
  have hzero : unitsOfPattern 0 = 0 := rfl
  have hmono {m n : Nat} : unitsOfPattern m < unitsOfPattern n ↔ m < n := strictMono_unitsOfPattern.lt_iff_lt
  have hl := hmono (m := 0) (n := patternOf l)
  have ht := hmono (m := 0) (n := patternOf t)
  have hlt := hmono (m := patternOf l) (n := patternOf t)
  have htl := hmono (m := patternOf t) (n := patternOf l)
  rw [signedUnits, signedUnits, magnitude_eq, magnitude_eq, signedPattern, signedPattern]
  split_ifs <;> omega

theorem signedPattern_of_infinite {v : Word} (hnan : ¬IsNaN v) (hfin : ¬IsFinite v) :
    signedPattern v = if v.getLsbD 31 then -(255 * 2 ^ 23) else 255 * 2 ^ 23 := by
  rw [isFinite_iff_expField, not_not] at hfin
  have hfrac : fracField v = 0 := by
    by_contra h
    exact hnan ((isNaN32_iff v).1 (by simp [isNaN32, hfin, h]))
  rw [expField_eq] at hfin
  rw [fracField_eq] at hfrac
  have hpattern : patternOf v = 255 * 2 ^ 23 := by omega
  rw [signedPattern, hpattern, signBit]
  rfl

theorem signedPattern_bounds {v : Word} (h : IsFinite v) :
    -(255 * 2 ^ 23) < signedPattern v ∧ signedPattern v < 255 * 2 ^ 23 := by
  have hlt : patternOf v < 2 ^ 31 := Nat.mod_lt _ (by decide)
  rw [isFinite_iff] at h
  rw [signedPattern]
  split_ifs <;> omega

/-- The values compare as the signed patterns do: the pattern of an infinity is beyond that of every finite field. -/
theorem gt_val32_iff_signedPattern_lt {l t : Word} (hl : ¬IsNaN l) (ht : ¬IsNaN t) :
    (val32 l).gt (val32 t) = true ↔ signedPattern t < signedPattern l := by
  by_cases hlfin : IsFinite l
  · have hlb := signedPattern_bounds hlfin
    rw [val32_of_isFinite hlfin]
    by_cases htfin : IsFinite t
    · rw [val32_of_isFinite htfin, F32Value.gt, decide_eq_true_iff, signedUnits_lt_iff]
    · rw [val32_of_infinite ht htfin, signedPattern_of_infinite ht htfin, F32Value.gt]
      split_ifs with hst
      · exact iff_of_true hst hlb.1
      · exact iff_of_false hst (by omega)
  · rw [val32_of_infinite hl hlfin, signedPattern_of_infinite hl hlfin]
    by_cases htfin : IsFinite t
    · have htb := signedPattern_bounds htfin
      rw [val32_of_isFinite htfin, F32Value.gt]
      split_ifs with hsl
      · exact iff_of_false (by simp [hsl]) (by omega)
      · exact iff_of_true (by simpa using hsl) htb.2
    · rw [val32_of_infinite ht htfin, signedPattern_of_infinite ht htfin, F32Value.gt]
      cases l.getLsbD 31 <;> cases t.getLsbD 31 <;> simp

/-- Settles O24: with NaN off, keys and values both compare as the signed patterns do. -/
theorem keyComparatorDecidesAlike : Obligations.KeyComparatorDecidesAlike := by
  intro l t
  by_cases hnan : IsNaN l ∨ IsNaN t
  · rw [gt32_of_isNaN hnan, gtByKey]
    rcases hnan with hl | ht
    · rw [(isNaN32_iff l).2 hl]; rfl
    · rw [(isNaN32_iff t).2 ht, Bool.not_true, Bool.and_false]; rfl
  · obtain ⟨hl, ht⟩ := not_or.1 hnan
    rw [gt32_of_not_isNaN hl ht, Bool.eq_iff_iff, gt_val32_iff_signedPattern_lt hl ht, ← orderKey_lt_iff, gtByKey,
      (isNaN32_eq_false_iff l).2 hl, (isNaN32_eq_false_iff t).2 ht, Bool.not_false, Bool.true_and, Bool.true_and]

/-! ### Against a threshold of the map (R137) -/

/-- A threshold of the map as an extended rational: finite, and the exact quotient of its rank. -/
theorem valX_thrBits {p r : Nat} (hp : p ≤ 12) (hr : r < 4 ^ p) :
    ¬IsNaN (thrBits r p) ∧ valX (thrBits r p) = ((((r : ℚ) / 4 ^ p : ℚ) : WithTop ℚ) : WithBot (WithTop ℚ)) := by
  obtain ⟨-, hfin, hval⟩ := isThreshold_thrBits hp hr
  exact ⟨not_isNaN_of_isFinite hfin, by rw [valX_of_isFinite hfin, hval]⟩

section
variable {p r : Nat} {l : Word}

theorem gt32_thrBits_iff (hp : p ≤ 12) (hr : r < 4 ^ p) (hl : ¬IsNaN l) :
    gt32 l (thrBits r p) = true ↔ ((((r : ℚ) / 4 ^ p : ℚ) : WithTop ℚ) : WithBot (WithTop ℚ)) < valX l := by
  obtain ⟨hthr, hval⟩ := valX_thrBits hp hr
  rw [gt32_iff_greater, ← hval]
  exact ⟨fun ⟨_, _, h⟩ => h, fun h => ⟨hl, hthr, h⟩⟩

/-- The exact rational test of R137. -/
theorem gt32_thrBits_iff_valQ (hp : p ≤ 12) (hr : r < 4 ^ p) (hl : IsFinite l) :
    gt32 l (thrBits r p) = true ↔ (r : ℚ) < valQ l * 4 ^ p := by
  have hpos : (0 : ℚ) < 4 ^ p := pow_pos (by norm_num) p
  rw [gt32_thrBits_iff hp hr (not_isNaN_of_isFinite hl), valX_of_isFinite hl, WithBot.coe_lt_coe, WithTop.coe_lt_coe,
    div_lt_iff₀ hpos]

theorem valQ_nonpos_of_sign_set (h : l.getLsbD 31 = true) : valQ l ≤ 0 := by
  rw [valQ_eq, h, Bool.toNat_true, pow_one, neg_one_mul, neg_nonpos]
  positivity

/-- R137 (a): no threshold is below a value of sign 1. -/
theorem gt32_thrBits_of_sign_set (hp : p ≤ 12) (hr : r < 4 ^ p) (h : l.getLsbD 31 = true) :
    gt32 l (thrBits r p) = false := by
  by_cases hnan : IsNaN l
  · exact gt32_of_isNaN (.inl hnan)
  rw [← Bool.not_eq_true]
  by_cases hfin : IsFinite l
  · rw [gt32_thrBits_iff_valQ hp hr hfin, not_lt]
    exact (mul_nonpos_of_nonpos_of_nonneg (valQ_nonpos_of_sign_set h) (by positivity)).trans (Nat.cast_nonneg r)
  · rw [gt32_thrBits_iff hp hr hnan, valX_of_not_isFinite hfin, if_pos h]
    exact not_lt_bot

/-- R137 (b): every threshold is below 1. -/
theorem gt32_thrBits_of_one_le (hp : p ≤ 12) (hr : r < 4 ^ p) (hl : ¬IsNaN l)
    (h : (((1 : ℚ) : WithTop ℚ) : WithBot (WithTop ℚ)) ≤ valX l) : gt32 l (thrBits r p) = true := by
  have hpos : (0 : ℚ) < 4 ^ p := pow_pos (by norm_num) p
  have hlt : (r : ℚ) / 4 ^ p < 1 := (div_lt_one hpos).2 (by exact_mod_cast hr)
  exact (gt32_thrBits_iff hp hr hl).2 ((WithBot.coe_lt_coe.2 (WithTop.coe_lt_coe.2 hlt)).trans_le h)

theorem valQ_of_sign_clear (h : l.getLsbD 31 = false) : valQ l = (magnitude l : ℚ) / unitsOfOne := by
  rw [valQ_eq, h, Bool.toNat_false, pow_zero, one_mul, zpow_neg, ← div_eq_mul_inv, unitsOfOne, Nat.cast_pow]
  rfl

theorem unitsOfOne_pos : 0 < unitsOfOne := Nat.two_pow_pos 149

/-- What R137 (b) tests, infinity included. -/
theorem one_le_valX_of_sign_clear (hsign : l.getLsbD 31 = false)
    (h : expField l = 255 ∨ unitsOfOne ≤ magnitude l) : (((1 : ℚ) : WithTop ℚ) : WithBot (WithTop ℚ)) ≤ valX l := by
  by_cases hfin : IsFinite l
  · have hle := h.resolve_left ((isFinite_iff_expField l).1 hfin)
    have hpos : (0 : ℚ) < unitsOfOne := Nat.cast_pos.2 unitsOfOne_pos
    rw [valX_of_isFinite hfin, WithBot.coe_le_coe, WithTop.coe_le_coe, valQ_of_sign_clear hsign, one_le_div hpos]
    exact Nat.cast_le.2 hle
  · rw [valX_of_not_isFinite hfin, hsign]
    exact WithBot.coe_le_coe.2 le_top

/-- A quotient exceeds `r` when its whole part does, or is `r` with a fraction dropped. -/
theorem mul_lt_iff_div_mod {d : Nat} (hd : 0 < d) (n r : Nat) : r * d < n ↔ r < n / d ∨ n / d = r ∧ n % d ≠ 0 := by
  rcases Nat.lt_trichotomy r (n / d) with hlt | rfl | hgt
  · refine iff_of_true ?_ (.inl hlt)
    calc r * d < (r + 1) * d := Nat.mul_lt_mul_of_pos_right r.lt_succ_self hd
      _ ≤ n := (Nat.le_div_iff_mul_le hd).1 hlt
  · have hn := Nat.div_add_mod' n d
    omega
  · have hle := ((Nat.div_lt_iff_lt_mul hd).1 hgt).le
    omega

/-- R137 (c) on a finite value of sign 0: the exact test, times `2^149`. -/
theorem fixedPoint_test_iff (hsign : l.getLsbD 31 = false) (p r : Nat) :
    (decide (r < magnitude l * 4 ^ p / unitsOfOne) ||
      (decide (magnitude l * 4 ^ p / unitsOfOne = r) && decide (magnitude l * 4 ^ p % unitsOfOne ≠ 0))) = true ↔
      (r : ℚ) < valQ l * 4 ^ p := by
  have hpos : (0 : ℚ) < unitsOfOne := Nat.cast_pos.2 unitsOfOne_pos
  rw [Bool.or_eq_true, Bool.and_eq_true, decide_eq_true_iff, decide_eq_true_iff, decide_eq_true_iff,
    ← mul_lt_iff_div_mod unitsOfOne_pos, valQ_of_sign_clear hsign, div_mul_eq_mul_div, lt_div_iff₀ hpos]
  exact_mod_cast Iff.rfl

theorem onFixedPoint_eq_gt32 (hp : p ≤ 12) (hr : r < 4 ^ p) : onFixedPoint p r l = gt32 l (thrBits r p) := by
  unfold onFixedPoint
  split
  case isTrue hnan => exact (gt32_of_isNaN (.inl ((isNaN32_iff l).1 hnan))).symm
  case isFalse hnan =>
    rw [isNaN32_iff] at hnan
    split
    case isTrue hsign => exact (gt32_thrBits_of_sign_set hp hr hsign).symm
    case isFalse hsign =>
      have hsign : l.getLsbD 31 = false := Bool.eq_false_iff.2 hsign
      split
      case isTrue hone =>
        rw [Bool.or_eq_true, decide_eq_true_iff, decide_eq_true_iff] at hone
        exact (gt32_thrBits_of_one_le hp hr hnan (one_le_valX_of_sign_clear hsign hone)).symm
      case isFalse hone =>
        rw [Bool.or_eq_true, decide_eq_true_iff, not_or] at hone
        rw [Bool.eq_iff_iff, gt32_thrBits_iff_valQ hp hr ((isFinite_iff_expField l).2 hone.1)]
        exact fixedPoint_test_iff hsign p r

end

/-- Settles O25: the exact test, what R137 (a) and (b) say of signs and of values from 1, and `onFixedPoint_eq_gt32`. -/
theorem fixedPointComparatorDecidesAlike : Obligations.FixedPointComparatorDecidesAlike := by
  intro p r l _ hp hr
  have hfour : (2 : ℚ) ^ (2 * p) = 4 ^ p := by rw [pow_mul]; norm_num
  rw [two_pow_two_mul] at hr
  rw [hfour]
  exact ⟨gt32_thrBits_iff_valQ hp hr, gt32_thrBits_of_sign_set hp hr, gt32_thrBits_of_one_le hp hr,
    onFixedPoint_eq_gt32 hp hr⟩

/-! ### The two flags of a comparison (R133, R135, R136) -/

/-- The STATUS bits of a comparison: NAN_SEEN and OOR_SEEN. -/
def flagBits (nan oor : Bool) : BitVec 6 :=
  (if nan then StatusBit.nanSeen.mask else 0) ||| (if oor then StatusBit.oorSeen.mask else 0)

/-- Both flags together are one update of STATUS. -/
theorem setStatusIf_flags_arch (s : State) (nan oor : Bool) :
    ((s.setStatusIf nan .nanSeen).setStatusIf oor .oorSeen).arch =
      ⟨s.arch.level, s.arch.mapValid, s.arch.status ||| flagBits nan oor⟩ := by
  simp only [setStatusIf_eq, flagBits, BitVec.or_assoc]

/-- STATUS with one bit alone has that bit set and no other. -/
theorem getLsbD_mask (b : StatusBit) (k : Nat) : b.mask.getLsbD k = decide (k = b.index) := by
  have hindex : b.index < 6 := by cases b <;> decide
  rw [StatusBit.mask, BitVec.getLsbD_shiftLeft, BitVec.getLsbD_one, Bool.eq_iff_iff]
  simp only [Bool.and_eq_true, Bool.not_eq_true', decide_eq_true_iff, decide_eq_false_iff_not]
  omega

theorem getLsbD_flagBits (nan oor : Bool) (k : Nat) :
    (flagBits nan oor).getLsbD k = (decide (k = 4) && nan || decide (k = 5) && oor) := by
  have hbit (b : StatusBit) (c : Bool) : (if c then b.mask else 0).getLsbD k = (decide (k = b.index) && c) := by
    cases c with
    | false => simp
    | true => rw [if_pos rfl, Bool.and_true, getLsbD_mask]
  rw [flagBits, BitVec.getLsbD_or, hbit, hbit]
  rfl

theorem nanOfPair_iff (l t : Word) : nanOfPair l t = true ↔ IsNaN l ∨ IsNaN t := by
  rw [nanOfPair, Bool.or_eq_true, isNaN32_iff, isNaN32_iff]

/-- Which STATUS bits stand after a comparison: those before it, and each flag whose condition holds. -/
theorem flagged_status (status : BitVec 6) {nan oor : Bool} {Nan Oor : Prop} (hnan : nan = true ↔ Nan)
    (hoor : oor = true ↔ Oor) :
    (∀ k < 4, (status ||| flagBits nan oor).getLsbD k = status.getLsbD k) ∧
      ((status ||| flagBits nan oor).getLsbD 4 = true ↔ status.getLsbD 4 = true ∨ Nan) ∧
      ((status ||| flagBits nan oor).getLsbD 5 = true ↔ status.getLsbD 5 = true ∨ Oor) := by
  refine ⟨fun k hk => ?_, ?_, ?_⟩
  · rw [BitVec.getLsbD_or, getLsbD_flagBits, decide_eq_false (by omega : k ≠ 4), decide_eq_false (by omega : k ≠ 5)]
    simp
  · rw [BitVec.getLsbD_or, getLsbD_flagBits, Bool.or_eq_true, ← hnan]
    simp
  · rw [BitVec.getLsbD_or, getLsbD_flagBits, Bool.or_eq_true, ← hoor]
    simp

theorem execTcmp_eq (tag : BitVec 8) (lum thr : Word) (s : State) :
    execTcmp tag lum thr s = .next (s.answered
      ⟨s.arch.level, s.arch.mapValid, s.arch.status ||| flagBits (nanOfPair lum thr) (outOfRange lum)⟩
      ⟨tag, Opcode.tcmp, .ok, gt32 lum thr, 0, 0⟩) := by
  rw [execTcmp_eq_answered, setStatusIf_flags_arch]
  rfl

theorem execDither_eq (tag : BitVec 8) (x y lum : Word) {s : State} (hm : s.arch.mapValid = true) :
    execDither tag x y lum s = .next (s.answered
      ⟨s.arch.level, s.arch.mapValid, s.arch.status ||| flagBits (isNaN32 lum) (outOfRange lum)⟩
      ⟨tag, Opcode.dither, .ok, gt32 lum (thrBits (s.sampleRank x y) s.power), BitVec.ofNat 32 (s.sampleRank x y),
        thrBits (s.sampleRank x y) s.power⟩) := by
  rw [execDither_of_map tag x y lum hm, setStatusIf_flags_arch]
  rfl

/-- Settles O26: the answer of TCMP, its decision and its flags. -/
theorem tcmpComparesItsOperands : Obligations.TcmpComparesItsOperands :=
  fun s tag lum thr => ⟨_, _, execTcmp_eq tag lum thr s, gt32_iff_greater lum thr,
    flagged_status s.arch.status (nanOfPair_iff lum thr) (outOfRange_iff lum)⟩

/-- Settles O27: the two branches of DITHER, and `cell_words` for the cell it compares with. -/
theorem ditherDecidesThePixel : Obligations.DitherDecidesThePixel := by
  intro s tag x y lum hlevel
  refine ⟨fun hm => ?map, fun hm => execDither_of_noMap tag x y lum hm⟩
  case map =>
    obtain ⟨hrank, hthr⟩ := cell_words (Nat.succ_le_succ hlevel) (wrap s.power y) (wrap s.power x)
    exact ⟨_, _, _, _, execDither_eq tag x y lum hm, hrank, hthr, gt32_iff_greater _ _,
      flagged_status s.arch.status (isNaN32_iff lum) (outOfRange_iff lum)⟩

/-! ### Runs of DITHER (R138, R139) -/

/-- From any S with this LEVEL and MAP_VALID the word gets the response `r` and adds `bits` to STATUS, and S is
otherwise the same. -/
def FixedReply (w : CommandWord) (level : BitVec 4) (mapValid : Bool) (r : Response) (bits : BitVec 6) : Prop :=
  ∀ status, replyOf w ⟨level, mapValid, status⟩ = ([r], ⟨level, mapValid, status ||| bits⟩)

theorem replyOf_of_exec {w : CommandWord} {i : Instr} {a b : Arch} {r : Response} (hd : decode w = .ok i)
    (h : exec i { State.reset with arch := a } = .next (State.answered { State.reset with arch := a } b r)) :
    replyOf w a = ([r], b) := by
  rw [replyOf, execWord_of_ok hd, h]
  rfl

section
variable {w : CommandWord} {tag : BitVec 8} {x y lum : Word} (hd : decode w = .ok (.dither tag x y lum))
include hd

theorem dither_fixedReply_of_map (level : BitVec 4) : ∃ rank, rank < 4 ^ (level.toNat + 1) ∧
    FixedReply w level true
      ⟨tag, Opcode.dither, .ok, gt32 lum (thrBits rank (level.toNat + 1)), BitVec.ofNat 32 rank,
        thrBits rank (level.toNat + 1)⟩
      (flagBits (isNaN32 lum) (outOfRange lum)) :=
  ⟨rank (level.toNat + 1) (wrap (level.toNat + 1) y) (wrap (level.toNat + 1) x), rank_lt _ _ _, fun status =>
    replyOf_of_exec hd (execDither_eq tag x y lum (s := { State.reset with arch := ⟨level, true, status⟩ }) rfl)⟩

theorem dither_fixedReply_of_noMap (level : BitVec 4) :
    FixedReply w level false ⟨tag, Opcode.dither, .error .nomap, false, 0, 0⟩ StatusBit.eNomap.mask :=
  fun _ => replyOf_of_exec hd (execDither_of_noMap tag x y lum rfl)

theorem exists_dither_fixedReply (level : BitVec 4) (mapValid : Bool) :
    ∃ r bits, FixedReply w level mapValid r bits := by
  cases mapValid with
  | false => exact ⟨_, _, dither_fixedReply_of_noMap hd level⟩
  | true =>
    obtain ⟨_, -, h⟩ := dither_fixedReply_of_map hd level
    exact ⟨_, _, h⟩

end

theorem sequential_cons_of_fixedReply {w : CommandWord} {level : BitVec 4} {mapValid : Bool} {r : Response}
    {bits : BitVec 6} (h : FixedReply w level mapValid r bits) (ws : List CommandWord) (status : BitVec 6) :
    sequential (w :: ws) ⟨level, mapValid, status⟩ =
      (r :: (sequential ws ⟨level, mapValid, status ||| bits⟩).1,
        (sequential ws ⟨level, mapValid, status ||| bits⟩).2) := by
  rw [sequential, h status]
  rfl

/-- The luminance of R138: 1.0 or 0.0. -/
def uniformLuminance (white : Bool) : Word := if white then 0x3F800000 else 0x00000000

/-- 1.0 is greater than every threshold of the map, and 0.0 than none. -/
theorem gt32_uniformLuminance (white : Bool) {p r : Nat} (hp : p ≤ 12) (hr : r < 4 ^ p) :
    gt32 (uniformLuminance white) (thrBits r p) = white := by
  cases white with
  | true =>
    refine gt32_thrBits_of_one_le hp hr (by unfold IsNaN; decide) ?_
    exact one_le_valX_of_sign_clear rfl (.inr (by decide))
  | false =>
    have hfin : IsFinite 0x00000000 := by unfold IsFinite; decide
    have hval : valQ 0x00000000 = 0 := by simp [valQ]
    rw [← Bool.not_eq_true, uniformLuminance, if_neg Bool.false_ne_true, gt32_thrBits_iff_valQ hp hr hfin, hval,
      zero_mul, not_lt]
    exact Nat.cast_nonneg r

/-- Every response of a run of DITHER of one luminance of R138 is that decision; the run leaves the map as it was. -/
theorem sequential_uniform {white : Bool} {level : BitVec 4} (hlevel : level.toNat ≤ 11) {ws : List CommandWord}
    (h : ∀ w ∈ ws, ∃ tag x y, decode w = .ok (.dither tag x y (uniformLuminance white))) (status : BitVec 6) :
    ∀ r ∈ (sequential ws ⟨level, true, status⟩).1, r.rc = .ok ∧ r.d = white := by
  induction ws generalizing status with
  | nil => exact nofun
  | cons w ws ih =>
    obtain ⟨⟨tag, x, y, hd⟩, hws⟩ := List.forall_mem_cons.1 h
    obtain ⟨rank, hrank, hreply⟩ := dither_fixedReply_of_map hd level
    rw [sequential_cons_of_fixedReply hreply]
    exact List.forall_mem_cons.2 ⟨⟨rfl, gt32_uniformLuminance white (Nat.succ_le_succ hlevel) hrank⟩, ih hws _⟩

/-- Settles O28: `length_sequential` and `sequential_uniform`. -/
theorem uniformImagesAreUniform : Obligations.UniformImagesAreUniform := by
  intro a ws white hm hlevel h
  obtain ⟨level, mapValid, status⟩ := a
  cases (show mapValid = true from hm)
  exact ⟨length_sequential ws _, sequential_uniform hlevel h status⟩

/-- Settles O29, by induction on the permutation: two neighbours that change places have fixed replies, and the STATUS
bits they add are combined by OR, in either order. -/
theorem ditherOrderDoesNotMatter : Obligations.DitherOrderDoesNotMatter := by
  intro a ws vs h hperm
  induction hperm generalizing a with
  | nil => exact ⟨.nil, rfl⟩
  | cons w _ ih =>
    obtain ⟨hresponses, harch⟩ := ih (replyOf w a).2 (List.forall_mem_cons.1 h).2
    exact ⟨hresponses.append_left _, harch⟩
  | swap w v ws =>
    obtain ⟨⟨_, _, _, _, hv⟩, hws⟩ := List.forall_mem_cons.1 h
    obtain ⟨⟨_, _, _, _, hw⟩, -⟩ := List.forall_mem_cons.1 hws
    obtain ⟨r, bits, hreply⟩ := exists_dither_fixedReply hw a.level a.mapValid
    obtain ⟨r', bits', hreply'⟩ := exists_dither_fixedReply hv a.level a.mapValid
    obtain ⟨level, mapValid, status⟩ := a
    simp only [sequential_cons_of_fixedReply hreply, sequential_cons_of_fixedReply hreply']
    rw [BitVec.or_assoc, BitVec.or_assoc, BitVec.or_comm bits']
    exact ⟨.swap _ _ _, rfl⟩
  | trans hfirst _ ih ih' =>
    obtain ⟨hresponses, harch⟩ := ih a h
    obtain ⟨hresponses', harch'⟩ := ih' a fun w hw => h w (hfirst.mem_iff.2 hw)
    exact ⟨hresponses.trans hresponses', harch.trans harch'⟩

end Sys2Proof.Machine
end

section
/-! PROOFS. The statements of 42_control.md: NOP answers its tag alone, GETCFG reads the configuration and STATUS, CLRSTAT
reads STATUS and clears the selected bits. -/

namespace Sys2Proof.Machine

/-! ### The three commands, as answers -/

theorem exec_nop_eq_answered (tag : BitVec 8) (s : State) :
    exec (.nop tag) s = .next (s.answered s.arch ⟨tag, Opcode.nop, .ok, false, 0, 0⟩) := by
  rw [exec, execNop, respond_eq_answered]

theorem exec_getcfg_eq_answered (tag : BitVec 8) (s : State) :
    exec (.getcfg tag) s =
      .next (s.answered s.arch ⟨tag, Opcode.getcfg, .ok, false, s.arch.cfgWord, s.arch.statusWord⟩) := by
  rw [exec, execGetcfg, respond_eq_answered]

/-- The response holds the STATUS from before the bits are cleared (R166). -/
theorem exec_clrstat_eq_answered (tag : BitVec 8) (mask : BitVec 6) (s : State) :
    exec (.clrstat tag mask) s =
      .next (s.answered ⟨s.arch.level, s.arch.mapValid, s.arch.status &&& ~~~mask⟩
        ⟨tag, Opcode.clrstat, .ok, false, 0, s.arch.statusWord⟩) := by
  rw [exec, execClrstat, respond_eq_answered]
  rfl

/-! ### NOP (R160) -/

/-- Above the tag, every field of a NOP's response is 0 (R67), so its word is the tag with zeros in front. -/
theorem encodeResponse_nop (tag : BitVec 8) :
    encodeResponse ⟨tag, Opcode.nop, .ok, false, 0, 0⟩ = tag.setWidth 96 := by
  have habove :
      (0 : Word) ++ (0 : Word) ++ (0 : BitVec 15) ++ BitVec.ofBool false ++ ResultCode.ok.bits ++ Opcode.nop = 0 := by
    decide
  rw [encodeResponse, habove, BitVec.setWidth_eq_append (by decide : 8 ≤ 96)]
  rfl

/-- Settles O31: `exec_nop_eq_answered` and the word of the response, `encodeResponse_nop`. -/
theorem nopEchoesItsTag : Obligations.NopEchoesItsTag :=
  fun s tag => ⟨_, exec_nop_eq_answered tag s, encodeResponse_nop tag⟩

/-! ### GETCFG (R164, R165) -/

/-- The fields of the CFG word stand where R164 puts them: below each are just the fields of the lower bit places. -/
theorem cfgWord_fields (a : Arch) :
    a.cfgWord.extractLsb' 0 4 = a.level ∧ a.cfgWord.getLsbD 4 = a.mapValid ∧ a.cfgWord.extractLsb' 5 3 = 0 ∧
      a.cfgWord.extractLsb' 8 4 = BitVec.ofNat 4 Config.LMAX ∧ a.cfgWord.extractLsb' 12 4 = 0 ∧
      a.cfgWord.extractLsb' 16 8 = Config.VERSION ∧ a.cfgWord.extractLsb' 24 8 = Config.ID := by
  refine ⟨?level, ?mapValid, ?zero5, ?lmax, ?zero12, ?version, ?id⟩
  case mapValid => simp only [Arch.cfgWord, BitVec.getLsbD_append]; simp
  case id =>
    iterate 6 refine (BitVec.extractLsb'_append_eq_of_le (by decide)).trans ?_
    exact BitVec.extractLsb'_eq_self
  all_goals
    repeat refine (BitVec.extractLsb'_append_eq_of_le (by decide)).trans ?_
    exact BitVec.extractLsb'_append_eq_right

/-- Settles O32: the constants of `Config` are those of R28, and the rest is `cfgWord_fields`. -/
theorem getcfgReadsConfiguration : Obligations.GetcfgReadsConfiguration := by
  intro s tag
  obtain ⟨hlevel, hmap, hzero5, hlmax, hzero12, hversion, hid⟩ := cfgWord_fields s.arch
  exact ⟨_, _, exec_getcfg_eq_answered tag s, hlevel, hmap, hzero5, hlmax, hzero12, hversion, hid,
    statusWord_toNat s.arch⟩

/-! ### CLRSTAT (R166) -/

/-- A STATUS bit keeps its value unless the mask selects it (R166). -/
theorem clearStatus_status_getLsbD (s : State) (mask : BitVec 6) {k : Nat} (hk : k < 6) :
    (s.clearStatus mask).arch.status.getLsbD k = (s.arch.status.getLsbD k && !mask.getLsbD k) := by
  simp [hk]

/-- Settles O33: `exec_clrstat_eq_answered`, the STATUS it leaves read bit by bit. -/
theorem clrstatReadsAndClears : Obligations.ClrstatReadsAndClears :=
  fun s tag mask => ⟨_, _, exec_clrstat_eq_answered tag mask s, statusWord_toNat s.arch,
    fun _ hk => clearStatus_status_getLsbD s mask hk⟩

end Sys2Proof.Machine
end

section
/-! PROOFS. The statements of 60_exceptions.md: `raise` sets the bit of its cause and answers, the result code is the first
error in R204's order, and no step stops the machine. -/

namespace Sys2Proof.Machine

/-! ### `raise` (R201, R203) -/

/-- Settles O35: `raise_eq_answered`, with the mask of each cause written out. -/
theorem raiseSetsItsBitAndAnswers : Obligations.RaiseSetsItsBitAndAnswers := by
  intro s tag op e
  rw [raise_eq_answered]
  cases e <;> rfl

/-! ### The first error in the order of priority (R204) -/

/-- The result code due to a decoded word: the first condition in R204's order that holds, or OK. -/
def firstError (s : State) : Except DecodeError Instr → ResultCode
  | .error _ => .error .illegal
  | .ok (.nop _) => .ok
  | .ok (.setlvl _ level) => if 11 < level.toNat then .error .param else .ok
  | .ok (.getcfg _) => .ok
  | .ok (.clrstat _ _) => .ok
  | .ok (.tcell _ row col) =>
    if s.arch.mapValid = false then .error .nomap
    else if 2 ^ mapPower s ≤ row.toNat ∨ 2 ^ mapPower s ≤ col.toNat then .error .range else .ok
  | .ok (.tsample _ _ _) => if s.arch.mapValid = false then .error .nomap else .ok
  | .ok (.tcmp _ _ _) => .ok
  | .ok (.dither _ _ _ _) => if s.arch.mapValid = false then .error .nomap else .ok

/-- `f` answers `s` with the result code `rc`; if that is an error, STATUS gains the bit of its cause and no other. -/
def Reports (f : State → Host.Outcome State Fault Refusal) (s : State) (rc : ResultCode) : Prop :=
  ∃ (a : Arch) (r : Response), f s = .next (s.answered a r) ∧ r.rc = rc ∧
    ∀ e, rc = .error e → a.status = s.arch.status ||| (causeBit e).mask

section
variable {f : State → Host.Outcome State Fault Refusal} {s : State} {tag : BitVec 8} {op : BitVec 4}

theorem reports_ok {a : Arch} {d : Bool} {r0 r1 : Word} (h : f s = .next (s.answered a ⟨tag, op, .ok, d, r0, r1⟩)) :
    Reports f s .ok := ⟨a, _, h, rfl, nofun⟩

/-- A command that raises an error reports it, and its STATUS bit alone. -/
theorem reports_raise {e : ErrorCause} (h : f s = .next (s.raise tag op e)) : Reports f s (.error e) := by
  refine ⟨_, _, h.trans (congrArg _ (raise_eq_answered s tag op e)), rfl, fun e' he => ?_⟩
  cases he
  rfl

end

/-- SETLVL gives up the map before it raises PARAM, which leaves STATUS to `raise` (R110). -/
theorem execSetlvl_reports (tag : BitVec 8) (level : Word) (s : State) :
    Reports (execSetlvl tag level) s (firstError s (.ok (.setlvl tag level))) := by
  rw [firstError]
  split_ifs with hl
  · refine ⟨_, _, execSetlvl_of_tooLarge tag ((levelTooLarge_eq_true_iff level).2 hl) s, rfl, fun e he => ?_⟩
    cases he
    rfl
  · exact reports_ok (execSetlvl_of_fits tag (decide_eq_false hl) s)

/-- TCELL without a map reports NOMAP, whatever its coordinates (R111). -/
theorem execTcell_reports (tag : BitVec 8) (i j : Word) (s : State) :
    Reports (execTcell tag i j) s (firstError s (.ok (.tcell tag i j))) := by
  rw [firstError]
  split_ifs with hm ho
  · exact reports_raise (execTcell_of_noMap tag i j hm)
  · rw [← outside_iff, ← outside_iff, ← Bool.or_eq_true] at ho
    exact reports_raise (execTcell_of_outside tag (Bool.of_not_eq_false hm) ho)
  · obtain ⟨hi, hj⟩ := not_or.1 ho
    exact reports_ok (execTcell_of_inside tag (Bool.of_not_eq_false hm)
      (outside_or_eq_false (Nat.not_le.1 hi) (Nat.not_le.1 hj)))

theorem execTsample_reports (tag : BitVec 8) (x y : Word) (s : State) :
    Reports (execTsample tag x y) s (firstError s (.ok (.tsample tag x y))) := by
  rw [firstError]
  split_ifs with hm
  · exact reports_raise (execTsample_of_noMap tag x y hm)
  · exact reports_ok (execTsample_of_map tag x y (Bool.of_not_eq_false hm))

theorem execDither_reports (tag : BitVec 8) (x y lum : Word) (s : State) :
    Reports (execDither tag x y lum) s (firstError s (.ok (.dither tag x y lum))) := by
  rw [firstError]
  split_ifs with hm
  · exact reports_raise (execDither_of_noMap tag x y lum hm)
  · exact reports_ok (execDither_of_map tag x y lum (Bool.of_not_eq_false hm))

/-- Every legal command reports the first error that holds of it. -/
theorem exec_reports (i : Instr) (s : State) : Reports (exec i) s (firstError s (.ok i)) :=
  match i with
  | .nop tag => reports_ok (exec_nop_eq_answered tag s)
  | .setlvl tag level => execSetlvl_reports tag level s
  | .getcfg tag => reports_ok (exec_getcfg_eq_answered tag s)
  | .clrstat tag mask => reports_ok (exec_clrstat_eq_answered tag mask s)
  | .tcell tag i j => execTcell_reports tag i j s
  | .tsample tag x y => execTsample_reports tag x y s
  | .tcmp tag lum thr => reports_ok (execTcmp_eq_answered tag lum thr s)
  | .dither tag x y lum => execDither_reports tag x y lum s

/-- Every word, legal or not, reports the first error that holds of it. -/
theorem execWord_reports (w : CommandWord) (s : State) : Reports (execWord w) s (firstError s (decode w)) := by
  cases hd : decode w with
  | error e => exact reports_raise (congrFun (execWord_of_error hd) s)
  | ok i =>
    rw [execWord_of_ok hd]
    exact exec_reports i s

/-- Settles O36: `execWord_reports`, with the code and the bit written out for each decoded word and each cause. -/
theorem firstErrorInPriorityIsReported : Obligations.FirstErrorInPriorityIsReported := by
  intro w s
  obtain ⟨a, r, hexec, hrc, hstatus⟩ := execWord_reports w s
  refine ⟨a, r, hexec, hrc.trans ?code, fun e he => ?bit⟩
  case code =>
    cases decode w with
    | error e => rfl
    | ok i => cases i <;> rfl
  case bit =>
    rw [hstatus e (hrc.symm.trans he)]
    cases e <;> rfl

/-! ### No step stops the machine (R200) -/

/-- Settles O46, by `exists_step`: a reset edge and the beats alone have a next state, and so has a command that runs,
for every word is answered (R200). -/
theorem stepNeverStops : Obligations.StepNeverStops := exists_step

end Sys2Proof.Machine
end

section
/-! PROOFS. The statements of 70_reset_and_hazards.md: what a reset edge does, which word a broken offer gives, that an
offered response is stable, that a run is the sequential execution of what it accepted, and the progress of R243 and
R248. -/

namespace Sys2Proof.Machine

/-! ### A reset edge (R240 to R242) -/

theorem cmdBeat_of_rst {s : State} (h : s.cycle.rst = true) : cmdBeat s = none := by simp [cmdBeat, h]

theorem step_of_rst {s : State} (h : s.cycle.rst = true) : step s = .next (resetEdge s) := by simp [step, h]

theorem cmdReady_of_phase_reset {s : State} (h : s.phase = .reset) : cmdReady s = false := by simp [cmdReady, h]

theorem rspValid_of_phase_reset {s : State} (h : s.phase = .reset) : rspValid s = false := by simp [rspValid, h]

/-- Settles O41: the next state is `resetEdge s`, in phase reset, where both outputs are low. -/
theorem resetEdgeFromAnyState : Obligations.ResetEdgeFromAnyState := fun s hrst =>
  ⟨cmdBeat_of_rst hrst, rspBeat_of_rst hrst, resetEdge s, step_of_rst hrst, rfl, rfl, rfl, rfl, rfl, rfl, rfl, rfl,
    cmdReady_of_phase_reset rfl, rspValid_of_phase_reset rfl⟩

/-! ### Which word a broken offer gives (R245) -/

section
variable {s : State}

theorem eq_cmdData_or_mem_held {w : CommandWord} (h : cmdBeat s = some w) : w = s.cycle.cmdData ∨ w ∈ s.held := by
  obtain ⟨-, -, -, rfl⟩ := cmdBeat_eq_some h
  exact takenWord_mem s

/-- Whether the block is ready does not depend on which word it would take. -/
theorem cmdReady_taking (s : State) (k : Nat) : cmdReady (s.taking k) = cmdReady s := rfl

theorem cmdBeat_taking {k : Nat} {w : CommandWord} (hrst : s.cycle.rst = false) (hvalid : s.cycle.cmdValid = true)
    (hready : cmdReady s = true) (hk : (offeredWords s)[k]? = some w) : cmdBeat (s.taking k) = some w := by
  have htaken : takenWord (s.taking k) = w := by
    rw [takenWord, List.getD_eq_getElem?_getD]
    exact congrArg (Option.getD · _) hk
  simp [cmdBeat, cmdReady_taking, hrst, hvalid, hready, htaken]

/-- Each word the block may take has its place among the choices of the script. -/
theorem exists_cmdBeat_taking {w : CommandWord} (hrst : s.cycle.rst = false) (hvalid : s.cycle.cmdValid = true)
    (hready : cmdReady s = true) (hw : w = s.cycle.cmdData ∨ w ∈ s.held) : ∃ k, cmdBeat (s.taking k) = some w := by
  have hmem : w ∈ offeredWords s := List.mem_cons.2 hw
  obtain ⟨k, hk⟩ := List.mem_iff_getElem?.1 hmem
  exact ⟨k, cmdBeat_taking hrst hvalid hready hk⟩

end

/-- Settles O43: the last part is the first at the second edge, with `mem_held_of_step` for the first edge. -/
theorem brokenOfferTakesEitherWord : Obligations.BrokenOfferTakesEitherWord := by
  intro s
  refine ⟨fun w => eq_cmdData_or_mem_held, fun w => exists_cmdBeat_taking, fun t w hstep => mem_held_of_step hstep,
    fun t w hstep _ hbeat => ?_⟩
  refine (eq_cmdData_or_mem_held hbeat).imp_right fun hheld => ?_
  obtain ⟨-, hnone, hoffered⟩ := (mem_held_of_step hstep).1 hheld
  exact ⟨hnone, hoffered⟩

/-! ### What an edge without reset leaves in each field -/

section
variable {s t : State}

/-- The next state of an edge without reset: the beats alone, or the beats, then the oldest command answered. -/
theorem next_cases (hrst : s.cycle.rst = false) (h : step s = .next t) :
    (issue (clockEdge s) = none ∧ t = clockEdge s) ∨
    ∃ w rest a r, (clockEdge s).accepted = ⟨w, 0, 0⟩ :: rest ∧
      t = ({ clockEdge s with accepted := rest } : State).answered a r := by
  obtain ⟨hrst', -⟩ | ⟨-, hi, rfl⟩ | ⟨-, w, u, hi, hexec⟩ := step_cases h
  · simp [hrst] at hrst'
  · exact .inl ⟨hi, rfl⟩
  · obtain ⟨a, r, rfl⟩ := execWord_frame hexec
    obtain ⟨rest, haccepted, rfl⟩ := issue_eq_some hi
    exact .inr ⟨w, rest, a, r, haccepted, rfl⟩

theorem step_phase (hrst : s.cycle.rst = false) (h : step s = .next t) : t.phase = phaseNext s := by
  obtain ⟨-, rfl⟩ | ⟨w, rest, a, r, -, rfl⟩ := next_cases hrst h <;> rfl

theorem step_stall (hrst : s.cycle.rst = false) (h : step s = .next t) : t.stall = stallNext s := by
  obtain ⟨-, rfl⟩ | ⟨w, rest, a, r, -, rfl⟩ := next_cases hrst h <;> rfl

theorem step_script (hrst : s.cycle.rst = false) (h : step s = .next t) : t.script = s.script.tail := by
  obtain ⟨-, rfl⟩ | ⟨w, rest, a, r, -, rfl⟩ := next_cases hrst h <;> rfl

/-- The response that transfers leaves the FIFO, and new ones come in behind the others only. -/
theorem step_responses (hrst : s.cycle.rst = false) (h : step s = .next t) :
    s.responses.drop (rspBeat s).toList.length <+: t.responses := by
  obtain ⟨-, rfl⟩ | ⟨w, rest, a, r, -, rfl⟩ := next_cases hrst h
  · exact List.prefix_rfl
  · exact List.prefix_append _ _

theorem phaseNext_ne_reset (s : State) : phaseNext s ≠ .reset := by
  unfold phaseNext
  split
  · nofun
  · split <;> nofun
  · nofun

/-- Out of reset a response is offered exactly while one is pending (R246). -/
theorem rspValid_iff : rspValid s = true ↔ s.phase ≠ .reset ∧ s.responses ≠ [] := by
  cases hp : s.phase <;> simp [rspValid, hp]

end

/-! ### A response offered and not taken (R246 (a)) -/

/-- Settles O44: without a transfer the FIFO keeps its head, which is the response offered. -/
theorem offeredResponseIsStable : Obligations.OfferedResponseIsStable := by
  intro s t hvalid hrst hready hstep
  obtain ⟨r, rest, hs⟩ := List.exists_cons_of_ne_nil (rspValid_iff.1 hvalid).2
  have hbeat : rspBeat s = none := by simp [rspBeat, hready]
  obtain ⟨more, ht⟩ := step_responses hrst hstep
  rw [hbeat, Option.toList_none, List.length_nil, List.drop_zero, hs, List.cons_append] at ht
  have hvalid' : rspValid t = true :=
    rspValid_iff.2 ⟨by rw [step_phase hrst hstep]; exact phaseNext_ne_reset s, by simp [← ht]⟩
  exact ⟨hvalid', by simp [rspData, hvalid, hvalid', hs, ← ht]⟩

/-! ### Runs of several edges -/

theorem runEdges_zero_iff {s t : State} : runEdges 0 s = .next t ↔ s = t :=
  ⟨Host.Outcome.next.inj, congrArg _⟩

theorem runEdges_succ {s u : State} (n : Nat) (h : step s = .next u) : runEdges (n + 1) s = runEdges n u := by
  have h : core.step s = .next u := h
  simp only [runEdges, Host.Core.run, h]
  rfl

theorem exists_runEdges (n : Nat) (s : State) : ∃ t, runEdges n s = .next t := by
  induction n generalizing s with
  | zero => exact ⟨s, runEdges_zero_iff.2 rfl⟩
  | succ n ih =>
    obtain ⟨u, hu⟩ := exists_step s
    rw [runEdges_succ n hu]
    exact ih u

theorem acceptedIn_succ {s u : State} (n : Nat) (h : step s = .next u) :
    acceptedIn (n + 1) s = (cmdBeat s).toList ++ acceptedIn n u := by simp [acceptedIn, h]

/-- What holds of the next `n + 1` scripted cycles holds of the next `n` after the edge. -/
theorem forall_take_of_step {P : Cycle → Prop} {s t : State} {n : Nat} (hrst : s.cycle.rst = false)
    (hstep : step s = .next t) (h : ∀ c ∈ s.script.take (n + 1), P c) : ∀ c ∈ t.script.take n, P c := by
  rw [step_script hrst hstep]
  intro c hc
  cases hs : s.script with
  | nil => simp [hs] at hc
  | cons d rest =>
    rw [hs, List.tail_cons] at hc
    exact h c (by rw [hs, List.take_succ_cons]; exact List.mem_cons_of_mem _ hc)

/-- What holds of the scripted cycles holds of the coming one, if it holds of an idle one where the script is over. -/
theorem cycle_of_take_succ {P : Cycle → Prop} {s : State} {n : Nat} (hidle : s.script = [] → P Cycle.idle)
    (h : ∀ c ∈ s.script.take (n + 1), P c) : P s.cycle := by
  rw [State.cycle]
  cases hs : s.script with
  | nil => exact hidle hs
  | cons d rest => exact h d (by simp [hs])

theorem cycle_rst_of_noReset {s : State} {n : Nat} (h : NoReset (n + 1) s) : s.cycle.rst = false :=
  cycle_of_take_succ (P := fun c => c.rst = false) (fun _ => rfl) h

theorem noReset_of_step {s t : State} {n : Nat} (h : NoReset (n + 1) s) (hstep : step s = .next t) : NoReset n t :=
  forall_take_of_step (cycle_rst_of_noReset h) hstep h

/-- The steps of a run of `n + 1` edges without reset. -/
theorem run_succ_cases {s t : State} {n : Nat} (h : NoReset (n + 1) s) (hrun : runEdges (n + 1) s = .next t) :
    ∃ u, s.cycle.rst = false ∧ step s = .next u ∧ NoReset n u ∧ runEdges n u = .next t := by
  obtain ⟨u, hu⟩ := exists_step s
  exact ⟨u, cycle_rst_of_noReset h, hu, noReset_of_step h hu, (runEdges_succ n hu).symm.trans hrun⟩

theorem run_running {s t : State} {n : Nat} (hs : s.phase = .running) (h : NoReset n s)
    (hrun : runEdges n s = .next t) : t.phase = .running := by
  induction n generalizing s with
  | zero => exact runEdges_zero_iff.1 hrun ▸ hs
  | succ n ih =>
    obtain ⟨u, hrst, hu, hrest, hrun⟩ := run_succ_cases h hrun
    exact ih (by simp [step_phase hrst hu, phaseNext, hs]) hrest hrun

/-! ### A run is sequential execution (R251) -/

/-- Over edges without reset, what the state stands for is what it stood for, followed by the words it accepts. -/
theorem run_view {s t : State} {n : Nat} (h : NoReset n s) (hrun : runEdges n s = .next t) (more : List CommandWord) :
    t.view more = s.view (acceptedIn n s ++ more) := by
  induction n generalizing s with
  | zero => rw [runEdges_zero_iff.1 hrun]; rfl
  | succ n ih =>
    obtain ⟨u, hrst, hu, hrest, hrun⟩ := run_succ_cases h hrun
    rw [ih hrest hrun, edgeKeepsTheSequentialReading s u _ hrst hu, acceptedIn_succ n hu, List.append_assoc]

/-- An idle block stands for what follows, executed in order. -/
theorem view_of_idle {s : State} (ha : s.accepted = []) (hr : s.responses = []) (more : List CommandWord) :
    s.view more = (s.received ++ (sequential more s.arch).1, (sequential more s.arch).2) := by
  simp [State.view, ha, hr]

/-- Settles O48: `run_view`, read at an idle state. -/
theorem runIsSequentialExecution : Obligations.RunIsSequentialExecution := by
  intro n s t ha hr hreceived hnoReset hrun
  have hview : t.view [] = sequential (acceptedIn n s) s.arch := by
    rw [run_view hnoReset hrun, List.append_nil, view_of_idle ha hr, hreceived, List.nil_append]
  refine ⟨hview, fun hta htr => ?_⟩
  rw [← hview, view_of_idle hta htr, sequential, List.append_nil]

/-! ### How many responses a state stands for -/

/-- The responses taken, offered, and still to be formed. -/
def promised (s : State) : Nat := formed s + s.accepted.length

theorem length_view (s : State) (more : List CommandWord) : (s.view more).1.length = promised s + more.length := by
  simp only [State.view, List.length_append, length_sequential, List.length_map, promised, formed]
  omega

/-- An edge adds the response to the command that transfers. -/
theorem promised_step {s t : State} (hrst : s.cycle.rst = false) (h : step s = .next t) :
    promised t = promised s + (cmdBeat s).toList.length := by
  have hview := congrArg (·.1.length) (edgeKeepsTheSequentialReading s t [] hrst h)
  simpa [length_view] using hview

theorem view_nil_prefix (s : State) (more : List CommandWord) : (s.view []).1 <+: (s.view more).1 := by
  simp [State.view, sequential_append, List.prefix_append_right_inj]

theorem received_prefix_view (s : State) (more : List CommandWord) : s.received <+: (s.view more).1 := by
  rw [State.view, List.append_assoc]
  exact List.prefix_append _ _

/-- When the host has taken all that a state stands for, nothing is in flight. -/
theorem idle_of_promised_le {s : State} (h : promised s ≤ s.received.length) : s.accepted = [] ∧ s.responses = [] := by
  simp only [promised, formed] at h
  exact ⟨List.length_eq_zero_iff.1 (by omega), List.length_eq_zero_iff.1 (by omega)⟩

/-! ### The work left until the host has taken a number of responses

It falls at every edge at which a response transfers or none is pending, and never rises; so it bounds the edges for
which a host that takes every response waits (O49), and it runs out for a host that takes them in its own time (O56, O57). -/

/-- The edges that commands in a FIFO take at the most, one after another, to be executed. -/
def executionEdges (l : List Accepted) : Nat := (l.map fun a => a.wait + a.delay + 1).sum

/-- The edges, at the most, until the host has taken `goal` responses: one for each still to be taken, and those that
the commands take whose responses are among them. -/
def work (goal : Nat) (s : State) : Nat :=
  (goal - s.received.length) + executionEdges (s.accepted.take (goal - formed s))

theorem executionEdges_cons (a : Accepted) (l : List Accepted) :
    executionEdges (a :: l) = a.wait + a.delay + 1 + executionEdges l := by simp [executionEdges]

/-- A tick takes edges off the waits. -/
theorem tick_wait_add_delay_le (a : Accepted) : a.tick.wait + a.tick.delay ≤ a.wait + a.delay := by
  simp only [Accepted.tick]; omega

/-- A command that must still wait after a tick has waited for one edge. -/
theorem tick_wait_add_delay_lt {a : Accepted} (h : 0 < a.tick.wait + a.tick.delay) :
    a.tick.wait + a.tick.delay < a.wait + a.delay := by
  simp only [Accepted.tick] at h ⊢; omega

theorem executionEdges_tick_le (l : List Accepted) : executionEdges (l.map Accepted.tick) ≤ executionEdges l := by
  induction l with
  | nil => rfl
  | cons a l ih =>
    have ha := tick_wait_add_delay_le a
    rw [List.map_cons, executionEdges_cons, executionEdges_cons]
    omega

theorem work_eq_zero_iff {goal : Nat} {s : State} : work goal s = 0 ↔ goal ≤ s.received.length := by
  refine ⟨fun h => by simp only [work] at h; omega, fun h => ?_⟩
  have hformed : goal - formed s = 0 := by simp only [formed]; omega
  simp [work, executionEdges, hformed, Nat.sub_eq_zero_of_le h]

theorem work_facing (goal : Nat) (s : State) (c : Cycle) : work goal (s.facing c) = work goal s := rfl

section
variable {s : State} {goal : Nat}

/-- The commands whose responses are asked for are those accepted before the edge, one tick on. -/
theorem take_clockEdge_accepted (hgoal : goal ≤ promised s) :
    (clockEdge s).accepted.take (goal - formed (clockEdge s)) =
      (s.accepted.take (goal - formed s)).map Accepted.tick := by
  rw [formed_clockEdge, clockEdge_accepted, List.take_append_of_le_length, List.map_take]
  simp only [promised] at hgoal
  simp only [List.length_map]
  omega

theorem work_clockEdge (hgoal : goal ≤ promised s) :
    work goal (clockEdge s) = (goal - s.received.length - (rspBeat s).toList.length) +
      executionEdges ((s.accepted.take (goal - formed s)).map Accepted.tick) := by
  rw [work, take_clockEdge_accepted hgoal, clockEdge_received, List.length_append, Nat.sub_add_eq]

theorem work_clockEdge_le (hgoal : goal ≤ promised s) : work goal (clockEdge s) ≤ work goal s := by
  have htick := executionEdges_tick_le (s.accepted.take (goal - formed s))
  rw [work_clockEdge hgoal, work]
  omega

theorem work_clockEdge_lt_of_rspBeat (hgoal : goal ≤ promised s) (hmissing : s.received.length < goal)
    (hbeat : (rspBeat s).isSome = true) : work goal (clockEdge s) < work goal s := by
  obtain ⟨r, hr⟩ := Option.isSome_iff_exists.1 hbeat
  have htick := executionEdges_tick_le (s.accepted.take (goal - formed s))
  rw [work_clockEdge hgoal, work, hr, Option.toList_some, List.length_singleton]
  omega

theorem work_clockEdge_lt_of_waiting (hgoal : goal ≤ promised s) (hmissing : formed s < goal)
    (hissue : issue (clockEdge s) = none) : work goal (clockEdge s) < work goal s := by
  obtain ⟨k, hk⟩ : ∃ k, goal - formed s = k + 1 := ⟨goal - formed s - 1, by omega⟩
  cases hs : s.accepted with
  | nil => simp only [promised, hs, List.length_nil] at hgoal; omega
  | cons a rest =>
    obtain hnil | ⟨b, rest', hcons, hwait⟩ := issue_eq_none hissue
    · simp [hs] at hnil
    · obtain ⟨rfl, -⟩ : a.tick = b ∧ _ := by simpa [hs] using hcons
      have hlt := tick_wait_add_delay_lt hwait
      have htick := executionEdges_tick_le (rest.take k)
      rw [work_clockEdge hgoal, work, hs, hk, List.take_succ_cons, List.map_cons, executionEdges_cons,
        executionEdges_cons]
      omega

variable {w : CommandWord} {rest : List Accepted} (a : Arch) (r : Response)

/-- Executing the oldest command forms one response more, and uses up its edge if that response is asked for. -/
theorem work_answered (haccepted : s.accepted = ⟨w, 0, 0⟩ :: rest) :
    work goal (({ s with accepted := rest } : State).answered a r) =
      work goal s - (if formed s < goal then 1 else 0) := by
  have hformed : formed (({ s with accepted := rest } : State).answered a r) = formed s + 1 := by
    simp [formed, Nat.add_assoc]
  rw [work, work, hformed, haccepted, answered_accepted, answered_received]
  split_ifs with h
  · obtain ⟨k, rfl⟩ := Nat.exists_eq_add_of_lt h
    have htake : formed s + k + 1 - (formed s + 1) = k ∧ formed s + k + 1 - formed s = k + 1 := by omega
    rw [htake.1, htake.2, List.take_succ_cons, executionEdges_cons]
    simp
    omega
  · have htake : goal - (formed s + 1) = 0 ∧ goal - formed s = 0 := by omega
    simp [htake]

end

section
variable {s t : State} {goal : Nat}

theorem work_step_le (hrst : s.cycle.rst = false) (hstep : step s = .next t) (hgoal : goal ≤ promised s) :
    work goal t ≤ work goal s := by
  have hbeats := work_clockEdge_le hgoal
  obtain ⟨-, rfl⟩ | ⟨w, rest, a, r, haccepted, rfl⟩ := next_cases hrst hstep
  · exact hbeats
  · rw [work_answered a r haccepted]; omega

/-- At an edge at which a response transfers, or none is pending, the work falls until none is left. -/
theorem work_step_le_pred (hrst : s.cycle.rst = false) (hstep : step s = .next t) (hgoal : goal ≤ promised s)
    (hmoves : s.responses = [] ∨ (rspBeat s).isSome = true) : work goal t ≤ work goal s - 1 := by
  obtain hdone | hmissing := le_or_gt goal s.received.length
  · have hle := work_step_le hrst hstep hgoal
    rw [work_eq_zero_iff.2 hdone] at hle ⊢
    exact hle
  obtain hempty | hbeat := hmoves
  · have hformed : formed s < goal := by simpa [formed, hempty] using hmissing
    obtain ⟨hissue, rfl⟩ | ⟨w, rest, a, r, haccepted, rfl⟩ := next_cases hrst hstep
    · exact Nat.le_pred_of_lt (work_clockEdge_lt_of_waiting hgoal hformed hissue)
    · rw [work_answered a r haccepted, formed_clockEdge, if_pos hformed]
      exact Nat.sub_le_sub_right (work_clockEdge_le hgoal) 1
  · have hlt := work_clockEdge_lt_of_rspBeat hgoal hmissing hbeat
    obtain ⟨-, rfl⟩ | ⟨w, rest, a, r, haccepted, rfl⟩ := next_cases hrst hstep
    · exact Nat.le_pred_of_lt hlt
    · rw [work_answered a r haccepted]; omega

/-- Out of reset a host that takes a response leaves none behind, or none is pending. -/
theorem moves_of_rspReady (hrst : s.cycle.rst = false) (hphase : s.phase ≠ .reset) (hready : s.cycle.rspReady = true) :
    s.responses = [] ∨ (rspBeat s).isSome = true :=
  or_iff_not_imp_left.2 fun hne => isSome_rspBeat.2 ⟨hrst, rspValid_iff.2 ⟨hphase, hne⟩, hready⟩

end

/-! ### A host that takes a response in every cycle (R248, with a bound) -/

/-- Such a host has taken `goal` responses once the work for them is over. -/
theorem le_received_of_drains {s t : State} {n goal : Nat} (hphase : s.phase = .running) (hlen : n ≤ s.script.length)
    (hdrains : ∀ c ∈ s.script.take n, c.Drains) (hgoal : goal ≤ promised s) (hwork : work goal s ≤ n)
    (hrun : runEdges n s = .next t) : goal ≤ t.received.length := by
  induction n generalizing s with
  | zero =>
    rw [← runEdges_zero_iff.1 hrun]
    exact work_eq_zero_iff.1 (Nat.le_zero.1 hwork)
  | succ n ih =>
    obtain ⟨hrst, hready⟩ : s.cycle.Drains := cycle_of_take_succ (fun hnil => by simp [hnil] at hlen) hdrains
    obtain ⟨u, hu⟩ := exists_step s
    have hmoves := moves_of_rspReady hrst (by simp [hphase]) hready
    refine ih (s := u) ?_ ?_ (forall_take_of_step hrst hu hdrains) ?_ ?_ ((runEdges_succ n hu).symm.trans hrun)
    · simp [step_phase hrst hu, phaseNext, hphase]
    · rw [step_script hrst hu, List.length_tail]; omega
    · exact hgoal.trans (promised_step hrst hu ▸ Nat.le_add_right _ _)
    · exact (work_step_le_pred hrst hu hgoal hmoves).trans (Nat.sub_le_of_le_add hwork)

/-- A block that is offered nothing accepts nothing. -/
theorem acceptedIn_eq_nil {s : State} {n : Nat} (hnoReset : NoReset n s)
    (h : ∀ c ∈ s.script.take n, c.cmdValid = false) : acceptedIn n s = [] := by
  induction n generalizing s with
  | zero => rfl
  | succ n ih =>
    obtain ⟨u, hu⟩ := exists_step s
    have hvalid : s.cycle.cmdValid = false := cycle_of_take_succ (P := fun c => c.cmdValid = false) (fun _ => rfl) h
    have hrest := forall_take_of_step (cycle_rst_of_noReset hnoReset) hu h
    rw [acceptedIn_succ n hu, ih (noReset_of_step hnoReset hu) hrest]
    simp [cmdBeat, hvalid]

/-- To take all that a state stands for is the work of O49's bound. -/
theorem work_promised (s : State) :
    work (promised s) s =
      (s.accepted.map fun a => a.wait + a.delay).sum + 2 * s.accepted.length + s.responses.length := by
  have htake : promised s - formed s = s.accepted.length := by simp [promised]
  rw [work, htake, List.take_length, executionEdges, List.sum_map_add]
  simp [promised, formed]
  omega

/-- Settles O49: what the host has taken and what was promised at the start both begin what the run stands for, and the
host has taken no less. -/
theorem acceptedCommandsAreAnswered : Obligations.AcceptedCommandsAreAnswered := by
  intro s n hphase hlen hdrains hbound
  obtain ⟨t, hrun⟩ := exists_runEdges n s
  have hnoReset : NoReset n s := fun c hc => (hdrains c hc).1
  have hview := run_view hnoReset hrun []
  rw [List.append_nil] at hview
  have htaken : promised s ≤ t.received.length :=
    le_received_of_drains hphase hlen hdrains le_rfl (work_promised s ▸ hbound) hrun
  have hstart : (s.view []).1 = s.received ++ s.responses ++ (sequential (s.accepted.map (·.word)) s.arch).1 := by
    simp [State.view]
  refine ⟨t, hrun, ?_, fun hquiet => ?_⟩
  · rw [← hstart]
    refine List.prefix_of_prefix_length_le (view_nil_prefix s (acceptedIn n s)) ?_ (by simpa [length_view] using htaken)
    exact hview ▸ received_prefix_view t []
  · rw [acceptedIn_eq_nil hnoReset hquiet] at hview
    have hpromised : promised t = promised s := by simpa [length_view] using congrArg (·.1.length) hview
    obtain ⟨ha, hr⟩ := idle_of_promised_le (hpromised.trans_le htaken)
    refine ⟨ha, hr, ?_, fun hstall => ?_⟩
    · rw [← hstart, ← hview, view_of_idle ha hr, sequential, List.append_nil]
    · simp [cmdReady, run_running hphase hnoReset hrun, hstall, hasRoom_of_empty ha hr]

/-! ### Out of reset (R243) -/

/-- A block that has been low for `j` cycles out of reset is ready within the rest of RST_LAT. -/
theorem exists_cmdReady_of_waking {s : State} {j d : Nat} (hinv : Inv s) (hphase : s.phase = .waking j)
    (hd : Config.rstLat ≤ j + d) (hnoReset : NoReset d s) :
    ∃ k ≤ d, ∃ t, runEdges k s = .next t ∧ cmdReady t = true := by
  induction d generalizing s j with
  | zero =>
    obtain ⟨ha, hr, -⟩ := hinv.quiet (by simp [hphase])
    exact ⟨0, le_rfl, s, runEdges_zero_iff.2 rfl, cmdReady_of_rstLat_le hphase hd ha hr⟩
  | succ d ih =>
    cases hready : cmdReady s with
    | true => exact ⟨0, Nat.zero_le _, s, runEdges_zero_iff.2 rfl, hready⟩
    | false =>
      obtain ⟨u, hu⟩ := exists_step s
      have hnext : u.phase = .waking (j + 1) := by
        simp [step_phase (cycle_rst_of_noReset hnoReset) hu, phaseNext, hphase, hready]
      obtain ⟨k, hk, t, hrun, ht⟩ := ih (stepKeepsInv s u hinv hu) hnext (by omega) (noReset_of_step hnoReset hu)
      exact ⟨k + 1, Nat.succ_le_succ hk, t, (runEdges_succ k hu).trans hrun, ht⟩

/-- Settles O50: the first edge starts the count, and `exists_cmdReady_of_waking` ends it. -/
theorem readyWithinResetLatency : Obligations.ReadyWithinResetLatency := by
  intro s hinv hphase hnoReset
  obtain ⟨u, hu⟩ := exists_step s
  have hnext : u.phase = .waking 0 := by simp [step_phase (cycle_rst_of_noReset hnoReset) hu, phaseNext, hphase]
  obtain ⟨k, hk, t, hrun, ht⟩ :=
    exists_cmdReady_of_waking (stepKeepsInv s u hinv hu) hnext (by omega) (noReset_of_step hnoReset hu)
  exact ⟨k, hk, t, (runEdges_succ k hu).trans hrun, ht⟩

/-! ### Runs without end without reset -/

section
variable {env : Nat → Cycle} {s : State} (hrst : ∀ k, (env k).rst = false)
include hrst

theorem phase_during_succ (n : Nat) : (during env s (n + 1)).phase = phaseNext (during env s n) := by
  obtain ⟨t, hstep, hnext⟩ := during_succ hrst s n
  rw [hnext, facing_phase, step_phase (during_cycle_rst hrst s n) hstep]

theorem phase_during_ne_reset {n : Nat} (hn : 0 < n) : (during env s n).phase ≠ .reset := by
  obtain ⟨k, rfl⟩ := Nat.exists_eq_succ_of_ne_zero hn.ne'
  exact phase_during_succ hrst k ▸ phaseNext_ne_reset _

theorem stall_during_succ (n : Nat) : (during env s (n + 1)).stall = stallNext (during env s n) := by
  obtain ⟨t, hstep, hnext⟩ := during_succ hrst s n
  rw [hnext, facing_stall, step_stall (during_cycle_rst hrst s n) hstep]

theorem received_during_succ (n : Nat) :
    (during env s (n + 1)).received = (during env s n).received ++ (rspBeat (during env s n)).toList := by
  obtain ⟨t, hstep, hnext⟩ := during_succ hrst s n
  rw [hnext, facing_received, step_received hstep]

theorem view_during_succ (n : Nat) :
    (during env s (n + 1)).view [] = (during env s n).view (cmdBeat (during env s n)).toList := by
  obtain ⟨t, hstep, hnext⟩ := during_succ hrst s n
  have hview := edgeKeepsTheSequentialReading _ t [] (during_cycle_rst hrst s n) hstep
  rw [List.append_nil] at hview
  rw [hnext]
  exact hview

theorem promised_during_succ (n : Nat) :
    promised (during env s (n + 1)) = promised (during env s n) + (cmdBeat (during env s n)).toList.length := by
  simpa [length_view] using congrArg (·.1.length) (view_during_succ hrst (s := s) n)

/-- What a run stands for only grows at its end. -/
theorem view_during_prefix {n m : Nat} (h : n ≤ m) : ((during env s n).view []).1 <+: ((during env s m).view []).1 := by
  induction m, h using Nat.le_induction with
  | base => exact List.prefix_rfl
  | succ m _ ih => exact ih.trans (view_during_succ hrst m ▸ view_nil_prefix _ _)

theorem promised_during_mono {n m : Nat} (h : n ≤ m) : promised (during env s n) ≤ promised (during env s m) := by
  simpa [length_view] using (view_during_prefix hrst (s := s) h).length_le

theorem work_during_succ_le {n goal : Nat} (hgoal : goal ≤ promised (during env s n)) :
    work goal (during env s (n + 1)) ≤ work goal (during env s n) := by
  obtain ⟨t, hstep, hnext⟩ := during_succ hrst s n
  rw [hnext, work_facing]
  exact work_step_le (during_cycle_rst hrst s n) hstep hgoal

theorem work_during_le {n m goal : Nat} (h : n ≤ m) (hgoal : goal ≤ promised (during env s n)) :
    work goal (during env s m) ≤ work goal (during env s n) := by
  induction m, h using Nat.le_induction with
  | base => exact le_rfl
  | succ m hm ih => exact (work_during_succ_le hrst (hgoal.trans (promised_during_mono hrst hm))).trans ih

theorem work_during_succ_le_pred {n goal : Nat} (hgoal : goal ≤ promised (during env s n))
    (hmoves : (during env s n).responses = [] ∨ (rspBeat (during env s n)).isSome = true) :
    work goal (during env s (n + 1)) ≤ work goal (during env s n) - 1 := by
  obtain ⟨t, hstep, hnext⟩ := during_succ hrst s n
  rw [hnext, work_facing]
  exact work_step_le_pred (during_cycle_rst hrst s n) hstep hgoal hmoves

/-- The host takes the responses one at a time, so each has the cycle in which it transfers. -/
theorem exists_rspBeat_of_received {n m j : Nat} (hnm : n ≤ m) (hn : (during env s n).received.length ≤ j)
    (hm : j < (during env s m).received.length) :
    ∃ k ≥ n, (during env s k).received.length = j ∧ ∃ r, rspBeat (during env s k) = some r := by
  induction m, hnm using Nat.le_induction with
  | base => omega
  | succ m hnm ih =>
    by_cases hlt : j < (during env s m).received.length
    · exact ih hlt
    · rw [received_during_succ hrst m, List.length_append] at hm
      cases hbeat : rspBeat (during env s m) with
      | none => rw [hbeat, Option.toList_none, List.length_nil] at hm; omega
      | some r =>
        rw [hbeat, Option.toList_some, List.length_singleton] at hm
        exact ⟨m, hnm, by omega, r, hbeat⟩

end

/-- Of the responses a state stands for, the one that transfers is the first not yet taken. -/
theorem view_getElem?_of_rspBeat {s : State} {r : Response} (h : rspBeat s = some r) :
    (s.view []).1[s.received.length]? = some r := by
  obtain ⟨-, -, -, rest, hrest⟩ := rspBeat_eq_some h
  simp [State.view, hrest]

/-! ### A fair host is offered the response to every command (R248, first part) -/

section
variable {env : Nat → Cycle} {s : State} (hfair : FairHost env s)
include hfair

/-- Again and again a response transfers, or none is pending. -/
theorem exists_moves (n : Nat) :
    ∃ m ≥ n, (during env s m).responses = [] ∨ (rspBeat (during env s m)).isSome = true := by
  obtain ⟨hrst, hready⟩ := hfair
  by_cases hempty : (during env s (n + 1)).responses = []
  · exact ⟨n + 1, n.le_succ, .inl hempty⟩
  · obtain ⟨m, hm, hmready⟩ := hready (n + 1) (rspValid_iff.2 ⟨phase_during_ne_reset hrst n.succ_pos, hempty⟩)
    exact ⟨m, by omega, moves_of_rspReady (during_cycle_rst hrst s m) (phase_during_ne_reset hrst (by omega))
      (by rw [during_cycle]; exact hmready)⟩

/-- Every response that a cycle stands for is eventually taken: the work for it runs out. -/
theorem exists_received_ge {n goal : Nat} (hgoal : goal ≤ promised (during env s n)) :
    ∃ m ≥ n, goal ≤ (during env s m).received.length := by
  induction hw : work goal (during env s n) using Nat.strong_induction_on generalizing n with
  | _ w ih =>
    obtain hzero | hpos := Nat.eq_zero_or_pos w
    · exact ⟨n, le_rfl, work_eq_zero_iff.1 (hw.trans hzero)⟩
    · obtain ⟨m, hnm, hmoves⟩ := exists_moves hfair n
      obtain ⟨hrst, -⟩ := hfair
      have hgoalm := hgoal.trans (promised_during_mono hrst hnm)
      have hle := work_during_le hrst hnm hgoal
      have hpred := work_during_succ_le_pred hrst hgoalm hmoves
      obtain ⟨k, hk, hreceived⟩ :=
        ih (work goal (during env s (m + 1))) (by omega) (hgoalm.trans (promised_during_mono hrst m.le_succ)) rfl
      exact ⟨k, by omega, hreceived⟩

/-- Every response still to be taken is eventually offered, in its place. -/
theorem exists_offered {n j : Nat} {r : Response} (hr : ((during env s n).view []).1[j]? = some r)
    (hj : (during env s n).received.length ≤ j) :
    ∃ m ≥ n, rspValid (during env s m) = true ∧ rspData (during env s m) = some (encodeResponse r) ∧
      (during env s m).received.length = j := by
  obtain ⟨hlt, -⟩ := List.getElem?_eq_some_iff.1 hr
  obtain ⟨m, hnm, hm⟩ := exists_received_ge hfair (n := n) (goal := j + 1) (by simpa [length_view] using hlt)
  obtain ⟨hrst, -⟩ := hfair
  obtain ⟨k, hnk, hk, q, hbeat⟩ := exists_rspBeat_of_received hrst hnm hj hm
  obtain ⟨-, hvalid, -⟩ := rspBeat_eq_some hbeat
  obtain ⟨later, hlater⟩ := view_during_prefix hrst (s := s) hnk
  have hsame : some q = some r := by
    rw [← view_getElem?_of_rspBeat hbeat, hk, ← hlater, List.getElem?_append_left hlt, hr]
  exact ⟨k, hnk, hvalid, Option.some.inj hsame ▸ rspData_of_rspBeat hbeat, hk⟩

end

/-- A word that follows adds its own reply, which echoes its TAG and OP (R10, R42). -/
theorem view_singleton (s : State) (w : CommandWord) :
    ∃ r : Response, r.tag = tagField w ∧ r.op = opField w ∧ (s.view [w]).1 = (s.view []).1 ++ [r] := by
  obtain ⟨a, r, htag, hop, -, hexec⟩ :=
    execWord_answersOnce w { State.reset with arch := (s.view []).2 }
  have hreply : (replyOf w (s.view []).2).1 = [r] := by rw [replyOf, hexec _ rfl]; rfl
  refine ⟨r, htag, hop, ?_⟩
  simp only [State.view, List.append_nil] at hreply ⊢
  simp only [sequential_append, sequential, hreply, List.append_nil, List.append_assoc]

/-- Settles O56, by `exists_offered`: the response to a command that transfers is the last one promised in the next
cycle. -/
theorem acceptedCommandsAreOffered : Obligations.AcceptedCommandsAreOffered := by
  intro env s hfair
  refine ⟨fun n j r => exists_offered hfair, fun n w hw => ?_⟩
  have hview := view_during_succ hfair.1 (s := s) n
  obtain ⟨r, htag, hop, hlast⟩ := view_singleton (during env s n) w
  rw [hw, Option.toList_some] at hview
  rw [← hview] at hlast
  have hreceived : (during env s (n + 1)).received.length ≤ ((during env s n).view []).1.length := by
    have hle := length_rspBeat_le (during env s n)
    rw [received_during_succ hfair.1, length_view, List.length_append, promised, formed]
    omega
  have hplace : ((during env s (n + 1)).view []).1[((during env s n).view []).1.length]? = some r := by
    rw [hlast, List.getElem?_concat_length]
  obtain ⟨m, hm, hoffered⟩ := exists_offered hfair hplace hreceived
  exact ⟨r, htag, hop, hlast, m, hm, hoffered⟩

/-! ### A fair host finds the block ready (R248, second part) -/

/-- An idle block out of reset that is not ready is holding `cmd_ready` low, and the hold runs down. -/
theorem stallNext_lt_of_idle {s : State} (hphase : s.phase ≠ .reset) (ha : s.accepted = []) (hr : s.responses = [])
    (hready : cmdReady s = false) : stallNext s < s.stall := by
  have hroom := hasRoom_of_empty ha hr
  have hstall : s.stall ≠ 0 := by
    intro h0
    cases hp : s.phase with
    | reset => exact hphase hp
    | waking n => simp [cmdReady, hp, h0, hroom] at hready
    | running => simp [cmdReady, hp, h0, hroom] at hready
  have hnotStalled : rspStalled s = false := by
    have hvalid : rspValid s = false :=
      Bool.eq_false_of_not_eq_true fun hoffered => responses_ne_nil_of_rspValid hoffered hr
    simp [rspStalled, hvalid]
  exact Nat.lt_of_succ_le (stallNext_lt hstall hnotStalled).le

section
variable {env : Nat → Cycle} {s : State} (hfair : FairHost env s)
include hfair

/-- While the block is not ready it accepts nothing, so that in the end nothing is in flight. -/
theorem exists_idle_of_never_ready {n : Nat} (hlow : ∀ m ≥ n, cmdReady (during env s m) = false) :
    ∃ m ≥ n, ∀ k ≥ m, (during env s k).accepted = [] ∧ (during env s k).responses = [] := by
  obtain ⟨m, hnm, hm⟩ := exists_received_ge hfair (n := n) le_rfl
  obtain ⟨hrst, -⟩ := hfair
  have hpromised : ∀ k ≥ n, promised (during env s k) = promised (during env s n) := by
    intro k hk
    induction k, hk using Nat.le_induction with
    | base => rfl
    | succ k hk ih =>
      have hnone : cmdBeat (during env s k) = none := by simp [cmdBeat, hlow k hk]
      rw [promised_during_succ hrst, hnone, ih]
      rfl
  have hreceived : ∀ k ≥ m, promised (during env s n) ≤ (during env s k).received.length := by
    intro k hk
    induction k, hk using Nat.le_induction with
    | base => exact hm
    | succ k hk ih =>
      rw [received_during_succ hrst, List.length_append]
      exact Nat.le_add_right_of_le ih
  exact ⟨m, hnm, fun k hk => idle_of_promised_le ((hpromised k (hnm.trans hk)).trans_le (hreceived k hk))⟩

/-- The block is ready again and again: once idle, its hold of `cmd_ready` runs out. -/
theorem exists_cmdReady (n : Nat) : ∃ m ≥ n, cmdReady (during env s m) = true := by
  by_contra! hnever
  have hlow : ∀ m ≥ n, cmdReady (during env s m) = false := fun m hm => Bool.eq_false_of_not_eq_true (hnever m hm)
  obtain ⟨m, hnm, hidle⟩ := exists_idle_of_never_ready hfair hlow
  obtain ⟨hrst, -⟩ := hfair
  have hfalls : ∀ k, (during env s (m + 1 + (k + 1))).stall < (during env s (m + 1 + k)).stall := fun k => by
    obtain ⟨ha, hr⟩ := hidle (m + 1 + k) (by omega)
    rw [← Nat.add_assoc, stall_during_succ hrst]
    exact stallNext_lt_of_idle (phase_during_ne_reset hrst (by omega)) ha hr (hlow _ (by omega))
  exact not_strictAnti_of_wellFoundedLT (fun k => (during env s (m + 1 + k)).stall) (strictAnti_nat_of_succ_lt hfalls)

end

/-- A host that keeps its offers goes on offering a word until the block is ready. -/
theorem offer_stands {env : Nat → Cycle} {s : State} (hrst : ∀ k, (env k).rst = false) (hkept : OffersKept env s)
    {n m : Nat} (hvalid : (env n).cmdValid = true) (hnm : n ≤ m)
    (hlow : ∀ k, n ≤ k → k < m → cmdReady (during env s k) = false) :
    (env m).cmdValid = true ∧ (env m).cmdData = (env n).cmdData := by
  induction m, hnm using Nat.le_induction with
  | base => exact ⟨hvalid, rfl⟩
  | succ m hnm ih =>
    obtain ⟨hstill, hsame⟩ := ih fun k hk hkm => hlow k hk (hkm.trans m.lt_succ_self)
    have hnone : cmdBeat (during env s m) = none := by simp [cmdBeat, hlow m hnm m.lt_succ_self]
    obtain ⟨hnextValid, hnextData⟩ := hkept m (hrst m) hstill hnone
    exact ⟨hnextValid, hnextData.trans hsame⟩

/-- Settles O57: `exists_cmdReady`; in the first ready cycle the offered word still stands, and it is the one taken. -/
theorem offeredCommandsAreAccepted : Obligations.OfferedCommandsAreAccepted := by
  intro env s hfair n hvalid
  have hready := exists_cmdReady hfair n
  refine ⟨hready, fun hkept hheld => ?_⟩
  classical
  obtain ⟨hnm, hm⟩ := Nat.find_spec hready
  have hlow : ∀ k, n ≤ k → k < Nat.find hready → cmdReady (during env s k) = false := fun k hk hlt =>
    Bool.eq_false_of_not_eq_true fun htrue => Nat.find_min hready hlt ⟨hk, htrue⟩
  obtain ⟨hstill, hsame⟩ := offer_stands hfair.1 hkept hvalid hnm hlow
  obtain ⟨w, hw⟩ := Option.isSome_iff_exists.1 (isSome_cmdBeat.2
    ⟨during_cycle_rst hfair.1 s _, by rw [during_cycle]; exact hstill, hm⟩)
  have hdata := eq_cmdData_of_hostKeepsOffer (hostKeepsOffer_during hheld hkept _) hw
  rw [during_cycle, hsame] at hdata
  exact ⟨_, hnm, hdata ▸ hw⟩

end Sys2Proof.Machine
end
